-- ==== Sys2Proof/Word.lean ====
section
/-! DEFINITION. The word types: a 32-bit bus word, a bus byte, an integer register's number. -/

namespace Sys2Proof

/-- A 32-bit word of the control space (R16): bit 31 the most significant, bit 0 the least. -/
abbrev Word := BitVec 32

/-- A byte on the bus (R64). -/
abbrev Byte := BitVec 8

/-- The number of an integer register, 0 to 15 (R20, R81). -/
abbrev Reg := Fin 16

end Sys2Proof
end

