-- ==== Sys2Proof/Syntax.lean ====
section
/-! DEFINITION. The fifteen commands of CORE-CMD (R83), one constructor per row of the opcode table. Operands stand in
the assembler's order (R91): destinations `rd, rd2, rd3`, then sources `rs1, rs2, rs3, rs4`. -/

namespace Sys2Proof

/-- A command (R83). There are no immediates: every operand is a register number (R84). -/
inductive Instr where
  /-- NOP, opcode 0x00 (R210). -/
  | nop
  /-- MODMUL, opcode 0x10 (R101). -/
  | modmul (rd rs1 rs2 rs3 : Reg)
  /-- MODPOW, opcode 0x11 (R104). -/
  | modpow (rd rs1 rs2 rs3 : Reg)
  /-- GCD, opcode 0x12 (R108). -/
  | gcd (rd rs1 rs2 : Reg)
  /-- XGCD, opcode 0x13 (R111). -/
  | xgcd (rd rd2 rd3 rs1 rs2 : Reg)
  /-- MODINV, opcode 0x14 (R115). -/
  | modinv (rd rs1 rs2 : Reg)
  /-- WITNESS, opcode 0x20 (R131). -/
  | witness (rd rs1 rs2 rs3 rs4 : Reg)
  /-- ISPRIME, opcode 0x21 (R135). -/
  | isprime (rd rs1 : Reg)
  /-- GENKEY, opcode 0x30 (R151). -/
  | genkey (rd rd2 rd3 rs1 rs2 : Reg)
  /-- ENCRYPT, opcode 0x40 (R171). -/
  | encrypt (rd rs1 rs2 rs3 : Reg)
  /-- DECRYPT, opcode 0x41 (R173). -/
  | decrypt (rd rs1 rs2 rs3 : Reg)
  /-- BUILDTAB, opcode 0x50 (R181). -/
  | buildtab (rs1 rs2 rs3 : Reg)
  /-- FINDMSG, opcode 0x51 (R188). -/
  | findmsg (rd rs1 rs2 rs3 : Reg)
  /-- BREAK, opcode 0x52 (R186). -/
  | breakmsg (rd rs1 rs2 rs3 rs4 : Reg)
  /-- TABRD, opcode 0x53 (R184). -/
  | tabrd (rd rs1 : Reg)
  deriving DecidableEq, Repr

end Sys2Proof
end

