-- ==== Sys2Proof/WellFormed.lean ====
section
/-! DEFINITION. Which commands have a legal encoding (R86, R90). -/

namespace Sys2Proof

/-- R86: the three destinations of format D3S2 must be three different registers. -/
def distinctDestinations (rd rd2 rd3 : Reg) : Bool :=
  decide (rd ≠ rd2) && decide (rd ≠ rd3) && decide (rd2 ≠ rd3)

/-- A command is well formed when some legal word encodes it (R90). Register numbers are bounded by their type, and
a destination may equal a source in every format, so R86 is the only condition. -/
def Instr.wellFormed : Instr → Bool
  | .xgcd rd rd2 rd3 _ _ => distinctDestinations rd rd2 rd3
  | .genkey rd rd2 rd3 _ _ => distinctDestinations rd rd2 rd3
  | .nop | .modmul .. | .modpow .. | .gcd .. | .modinv .. | .witness .. | .isprime .. | .encrypt .. | .decrypt ..
  | .buildtab .. | .findmsg .. | .breakmsg .. | .tabrd .. => true

end Sys2Proof
end

