-- ==== Sys2Proof/Decode.lean ====
section
/-! DEFINITION. Decoding a command word (R80 to R90) and encoding a command. The decoder is total on any list of
bytes and on any word, and refuses by name. The encoder is written from the same tables R81 to R83. -/

namespace Sys2Proof

/-- Why a word is reserved (R90), or why some bytes are no command word at all (R80). -/
inductive DecodeError where
  /-- Not exactly four bytes: every command is one 32-bit word (R80). -/
  | length
  /-- One of the 241 reserved opcode values (R93). -/
  | opcode
  /-- A must-be-zero bit of the opcode's format is 1 (R82). -/
  | mustBeZero
  /-- Two destination fields of a D3S2 word are equal (R86). -/
  | equalDestinations
  deriving DecidableEq, Repr

/-- Bits 7:0 of the command word (R81). -/
def opcodeField (w : Word) : Nat := w.toNat % 256

/-- Bits `4k+3 : 4k` of the command word, zero-extended (R81, R84). `k = 2` is `rd`, 3 `rs1`, 4 `rs2`, 5 `rs3`,
6 `rs4` or `rd2`, 7 `rd3`. -/
def regField (w : Word) (k : Nat) : Reg := ⟨w.toNat / 16 ^ k % 16, Nat.mod_lt _ (by decide)⟩

/-- Format Z (R82): bits 31:8 must be zero. -/
def decodeZ (w : Word) (i : Instr) : Except DecodeError Instr :=
  if w.toNat / 16 ^ 2 = 0 then .ok i else .error .mustBeZero

/-- Format D1S1 (R82): bits 31:16 must be zero. -/
def decodeD1S1 (w : Word) (mk : Reg → Reg → Instr) : Except DecodeError Instr :=
  if w.toNat / 16 ^ 4 = 0 then .ok (mk (regField w 2) (regField w 3)) else .error .mustBeZero

/-- Format D1S2 (R82): bits 31:20 must be zero. -/
def decodeD1S2 (w : Word) (mk : Reg → Reg → Reg → Instr) : Except DecodeError Instr :=
  if w.toNat / 16 ^ 5 = 0 then .ok (mk (regField w 2) (regField w 3) (regField w 4)) else .error .mustBeZero

/-- Format D1S3 (R82): bits 31:24 must be zero. -/
def decodeD1S3 (w : Word) (mk : Reg → Reg → Reg → Reg → Instr) : Except DecodeError Instr :=
  if w.toNat / 16 ^ 6 = 0 then .ok (mk (regField w 2) (regField w 3) (regField w 4) (regField w 5))
  else .error .mustBeZero

/-- Format D1S4 (R82): bits 31:28 must be zero. -/
def decodeD1S4 (w : Word) (mk : Reg → Reg → Reg → Reg → Reg → Instr) : Except DecodeError Instr :=
  if w.toNat / 16 ^ 7 = 0 then
    .ok (mk (regField w 2) (regField w 3) (regField w 4) (regField w 5) (regField w 6))
  else .error .mustBeZero

/-- Format S3 (R82): bits 31:24 and 11:8 must be zero. -/
def decodeS3 (w : Word) (mk : Reg → Reg → Reg → Instr) : Except DecodeError Instr :=
  if w.toNat / 16 ^ 6 = 0 ∧ regField w 2 = 0 then .ok (mk (regField w 3) (regField w 4) (regField w 5))
  else .error .mustBeZero

/-- Format D3S2 (R82): bits 23:20 must be zero, and the three destinations differ (R86). Operands in the order
`rd, rd2, rd3, rs1, rs2`. -/
def decodeD3S2 (w : Word) (mk : Reg → Reg → Reg → Reg → Reg → Instr) : Except DecodeError Instr :=
  if regField w 5 = 0 then
    if distinctDestinations (regField w 2) (regField w 6) (regField w 7) then
      .ok (mk (regField w 2) (regField w 6) (regField w 7) (regField w 3) (regField w 4))
    else .error .equalDestinations
  else .error .mustBeZero

/-- The opcode map (R83) with each opcode's format (R82). Every other word is reserved (R90). -/
def decodeWord (w : Word) : Except DecodeError Instr :=
  match opcodeField w with
  | 0x00 => decodeZ w .nop
  | 0x10 => decodeD1S3 w .modmul
  | 0x11 => decodeD1S3 w .modpow
  | 0x12 => decodeD1S2 w .gcd
  | 0x13 => decodeD3S2 w .xgcd
  | 0x14 => decodeD1S2 w .modinv
  | 0x20 => decodeD1S4 w .witness
  | 0x21 => decodeD1S1 w .isprime
  | 0x30 => decodeD3S2 w .genkey
  | 0x40 => decodeD1S3 w .encrypt
  | 0x41 => decodeD1S3 w .decrypt
  | 0x50 => decodeS3 w .buildtab
  | 0x51 => decodeD1S3 w .findmsg
  | 0x52 => decodeD1S4 w .breakmsg
  | 0x53 => decodeD1S1 w .tabrd
  | _ => .error .opcode

/-- The word whose four bytes, lowest address first, are given: little-endian (R64). -/
def wordOfBytes (b0 b1 b2 b3 : Byte) : Word := b3 ++ b2 ++ b1 ++ b0

/-- The bytes of a word as they lie on the bus, lowest address first (R64). -/
def bytesOfWord (w : Word) : List Byte := (List.range 4).map fun k => BitVec.ofNat 8 (w.toNat / 256 ^ k)

/-- Decoding the bytes of a command word: exactly four (R80), little-endian (R64). -/
def decodeBytes : List Byte → Except DecodeError Instr
  | [b0, b1, b2, b3] => decodeWord (wordOfBytes b0 b1 b2 b3)
  | _ => .error .length

/-- The command word with the given opcode and contents of the six register fields, lowest first (R81). -/
def packWord (op : Nat) (f2 f3 f4 f5 f6 f7 : Reg) : Word :=
  BitVec.ofNat 32 (op + f2.val * 16 ^ 2 + f3.val * 16 ^ 3 + f4.val * 16 ^ 4 + f5.val * 16 ^ 5 + f6.val * 16 ^ 6
    + f7.val * 16 ^ 7)

/-- The word of a command, from R81 to R83: unused fields are zero. -/
def encode : Instr → Word
  | .nop => packWord 0x00 0 0 0 0 0 0
  | .modmul rd rs1 rs2 rs3 => packWord 0x10 rd rs1 rs2 rs3 0 0
  | .modpow rd rs1 rs2 rs3 => packWord 0x11 rd rs1 rs2 rs3 0 0
  | .gcd rd rs1 rs2 => packWord 0x12 rd rs1 rs2 0 0 0
  | .xgcd rd rd2 rd3 rs1 rs2 => packWord 0x13 rd rs1 rs2 0 rd2 rd3
  | .modinv rd rs1 rs2 => packWord 0x14 rd rs1 rs2 0 0 0
  | .witness rd rs1 rs2 rs3 rs4 => packWord 0x20 rd rs1 rs2 rs3 rs4 0
  | .isprime rd rs1 => packWord 0x21 rd rs1 0 0 0 0
  | .genkey rd rd2 rd3 rs1 rs2 => packWord 0x30 rd rs1 rs2 0 rd2 rd3
  | .encrypt rd rs1 rs2 rs3 => packWord 0x40 rd rs1 rs2 rs3 0 0
  | .decrypt rd rs1 rs2 rs3 => packWord 0x41 rd rs1 rs2 rs3 0 0
  | .buildtab rs1 rs2 rs3 => packWord 0x50 0 rs1 rs2 rs3 0 0
  | .findmsg rd rs1 rs2 rs3 => packWord 0x51 rd rs1 rs2 rs3 0 0
  | .breakmsg rd rs1 rs2 rs3 rs4 => packWord 0x52 rd rs1 rs2 rs3 rs4 0
  | .tabrd rd rs1 => packWord 0x53 rd rs1 0 0 0 0

/-- The opcode of a command (R83). -/
def opcodeOf : Instr → Nat
  | .nop => 0x00
  | .modmul .. => 0x10
  | .modpow .. => 0x11
  | .gcd .. => 0x12
  | .xgcd .. => 0x13
  | .modinv .. => 0x14
  | .witness .. => 0x20
  | .isprime .. => 0x21
  | .genkey .. => 0x30
  | .encrypt .. => 0x40
  | .decrypt .. => 0x41
  | .buildtab .. => 0x50
  | .findmsg .. => 0x51
  | .breakmsg .. => 0x52
  | .tabrd .. => 0x53

/-- The opcode table's rows as R82 states them: the format's mask, the opcode, and whether R86 applies. A word is the
row's command exactly when `cmd & mask = opcode` (and R86 holds). The decoder above does not use this table. -/
def maskRows : List (Word × Word × Bool) :=
  [(0xFFFFFFFF, 0x00, false), (0xFF0000FF, 0x10, false), (0xFF0000FF, 0x11, false), (0xFFF000FF, 0x12, false),
   (0x00F000FF, 0x13, true), (0xFFF000FF, 0x14, false), (0xF00000FF, 0x20, false), (0xFFFF00FF, 0x21, false),
   (0x00F000FF, 0x30, true), (0xFF0000FF, 0x40, false), (0xFF0000FF, 0x41, false), (0xFF000FFF, 0x50, false),
   (0xFF0000FF, 0x51, false), (0xF00000FF, 0x52, false), (0xFFFF00FF, 0x53, false)]

/-- What the decoder reads from the opcode table's numbering of an `nbits`-bit instruction `w`: its bytes laid out as
the bus lays them (R64), zeros above `nbits`, at least the four bytes of a command word. -/
def decodeTableWord (nbits w : Nat) : Option Instr :=
  (decodeBytes ((List.range (max 4 ((nbits + 7) / 8))).map fun k =>
    BitVec.ofNat 8 (w % 2 ^ nbits / 256 ^ k))).toOption

end Sys2Proof
end

