-- ==== Sys2Proof/Machine/Arith.lean ====
section
/-! DEFINITION. The integer functions of R15 and the internal functions of 40_modarith.md, 41_primality.md and
44_breaker.md. Operands a command has checked to be non-negative are `Nat`; the rest are `Int`. Every loop of the
pseudocode is structural recursion on a bound of its number of iterations. -/

namespace Sys2Proof.Machine

/-- `sgn(v)` (R15): -1 below 0, else +1. -/
def sgn (v : Int) : Int := if v < 0 then -1 else 1

/-- `bitlen(v)` (R15). -/
def bitlen (v : Nat) : Nat := if v = 0 then 0 else Nat.log2 v + 1

/-- `bit(v, i)` (R15). -/
def bit (v i : Nat) : Nat := v / 2 ^ i % 2

/-- `popcount(v)` (R15). -/
def popcount (v : Nat) : Nat := ((List.range (bitlen v)).map (bit v)).sum

/-- `clog2(n)` (R15), for `n >= 1`. -/
def clog2 (n : Nat) : Nat := bitlen (n - 1)

/-- Trailing zero bits of `v`, at most `fuel` of them. -/
def tzLoop : Nat → Nat → Nat
  | 0, _ => 0
  | fuel + 1, v => if v % 2 = 0 then tzLoop fuel (v / 2) + 1 else 0

/-- `tz(v)` (R15), for `v > 0`. -/
def tz (v : Nat) : Nat := tzLoop (bitlen v) v

/-- `modmul(a, b, m)` (R100). -/
def modmul (a b m : Nat) : Nat := a * b % m

/-- The loop of `modpow` (R102): the bits of `e` below bit `i`, most significant first. -/
def modpowLoop (b e m : Nat) : Nat → Nat → Nat
  | 0, acc => acc
  | i + 1, acc =>
    if bit e i = 1 then modpowLoop b e m i (modmul (modmul acc acc m) b m)
    else modpowLoop b e m i (modmul acc acc m)

/-- `modpow(b, e, m)` (R102), for `m > 0`. -/
def modpow (b e m : Nat) : Nat := modpowLoop b e m (bitlen e) (1 % m)

/-- The loop of `gcd` (R106); `b` iterations suffice, since `b` strictly decreases. -/
def gcdLoop : Nat → Nat → Nat → Nat
  | 0, a, _ => a
  | fuel + 1, a, b => if b = 0 then a else gcdLoop fuel b (a % b)

/-- `gcd(x, y)` (R106). -/
def gcd (x y : Int) : Nat := gcdLoop y.natAbs x.natAbs y.natAbs

/-- The loop of `xgcd` (R110) on its working registers; `r1` iterations suffice. The result is `(s0, t0, r0)`. -/
def xgcdLoop : Nat → Nat → Nat → Int → Int → Int → Int → Int × Int × Nat
  | 0, r0, _, s0, _, t0, _ => (s0, t0, r0)
  | fuel + 1, r0, r1, s0, s1, t0, t1 =>
    if r1 = 0 then (s0, t0, r0)
    else xgcdLoop fuel r1 (r0 - r0 / r1 * r1) s1 (s0 - (r0 / r1 : Nat) * s1) t1 (t0 - (r0 / r1 : Nat) * t1)

/-- `xgcd(u, v)` (R110): the triple `(coeff_u, coeff_v, g)`. -/
def xgcd (u v : Int) : Int × Int × Int :=
  match xgcdLoop v.natAbs u.natAbs v.natAbs 1 0 0 1 with
  | (s0, t0, r0) => (sgn u * s0, sgn v * t0, (r0 : Int))

/-- `modinv(a, m)` (R113), for `m > 0`: `none` is `absent`. `Int.emod` by a positive `m` is R15's floor modulo. -/
def modinv (a m : Int) : Option Int :=
  match xgcd a m with
  | (cu, _, g) => if g ≠ 1 then none else some (cu % m)

/-- The loop of `witness_test` (R132): the squarings still allowed, and `x`. -/
def witnessLoop (n : Nat) : Nat → Nat → Bool
  | 0, x => x == n - 1
  | k + 1, x => if x = n - 1 then true else witnessLoop n k (modmul x x n)

/-- `witness_test(a, s, d, n)` (R132), for `n > 0`. -/
def witnessTest (a s d n : Nat) : Bool :=
  if modpow a d n = 1 then true else witnessLoop n (s - 1) (modpow a d n)

/-- The table `build_table(e, n, r)` writes (R182), for `r >= 1`: 0, then `modpow(k, e, n)` for `1 <= k < r`. -/
def tableEntries (e n r : Nat) : List Nat := 0 :: (List.range (r - 1)).map fun k => modpow (k + 1) e n

/-- The inner loop of `find_message` (R185): the first of the `count` indices from `j` with `T[j] = t`. -/
def scanRow (T : Nat → Nat) (t : Nat) : Nat → Nat → Option Nat
  | 0, _ => none
  | count + 1, j => if T j = t then some j else scanRow T t count (j + 1)

/-- The outer loop of `find_message` (R185): `count` indices from `i`; an index without inverse is skipped. -/
def scanTable (T : Nat → Nat) (n c r : Nat) : Nat → Nat → Option Nat
  | 0, _ => none
  | count + 1, i =>
    match modinv (T i) n with
    | none => scanTable T n c r count (i + 1)
    | some inv =>
      match scanRow T (modmul c inv.toNat n) (r - 1) 1 with
      | some j => some (i * j % n)
      | none => scanTable T n c r count (i + 1)

/-- `find_message(n, c, r)` (R185) over the table `T`, for `n > 0` and `r >= 1`: `none` is `absent`. -/
def findMessage (T : Nat → Nat) (n c r : Nat) : Option Nat := scanTable T n c r (r - 1) 1

end Sys2Proof.Machine
end

