-- ==== Sys2Proof/Machine/Event.lean ====
section
/-! DEFINITION. The moves of the agents (R4, R283): host transactions (R60), answers of the randomness source (R245)
and moves of the engine (R35); and what a host transaction returns. -/

namespace Sys2Proof.Machine

/-- A bus access that is not a 32-bit one (R66). -/
inductive OddWidth where
  /-- One byte. -/
  | byte
  /-- Two bytes. -/
  | half
  /-- More than four bytes. -/
  | wide
  deriving DecidableEq, Repr

/-- A host transaction (R60), each atomic with respect to the engine. Offsets count bytes from the platform's base
address (R55). -/
inductive Transaction where
  /-- `WriteX(i, v)`. -/
  | writeX (i : Reg) (v : Int)
  /-- `ReadX(i)`. -/
  | readX (i : Reg)
  /-- `WriteReg(off, w)`, a 32-bit write; offsets from 0x1000 are the register window (R63). -/
  | writeReg (off : Nat) (w : Word)
  /-- `ReadReg(off)`, a 32-bit read. -/
  | readReg (off : Nat)
  /-- A read or write of another width (R66). -/
  | oddAccess (width : OddWidth) (off : Nat)
  /-- The external reset input (R260). -/
  | hardReset
  deriving DecidableEq, Repr

/-- One move of one agent (R283). The model's own type (log 3). -/
inductive Event where
  /-- The host performs a transaction. -/
  | host (t : Transaction)
  /-- The randomness source answers. -/
  | answer (v : Int)
  /-- The engine makes its next step. -/
  | engine
  deriving DecidableEq, Repr, Inhabited

/-- What the last host transaction returned. The model's own type (log 12). -/
inductive Response where
  /-- Nothing returned yet, or a hard reset, which returns nothing. -/
  | quiet
  /-- A write was taken by the bus; a dropped write answers the same, since dropping signals no error (R61). -/
  | ack
  /-- `ReadReg` returned a word. -/
  | word (w : Word)
  /-- `ReadX` returned an integer. -/
  | integer (v : Int)
  /-- The access was refused with a bus error (R66). -/
  | busError
  deriving DecidableEq, Repr

end Sys2Proof.Machine
end

