-- ==== Sys2Proof/Config.lean ====
section
/-! DEFINITION. What an implementation fixes (R10) and the free values. A free value is an opaque constant without a
body, applied to the counter `State.clock` or to an index: no proof can learn anything of it. -/

namespace Sys2Proof

/-- The OPEN parameters of an instance (R10, R32), in the form PARAM shows them. DEDUCED (log 2): R32 gives the limb
count 16 bits, and R10 bounds `KMAX` by 31. -/
structure Params where
  /-- `W / 32` when `W` is finite, 0 when `W = none` (R32). -/
  limbs : Fin 65536
  /-- `KMAX`: the table memory has `2^KMAX` entries (R10). -/
  kmax : Fin 32
  deriving DecidableEq, Repr

/-- DESIGN CHOICE (log 1): the instance of `State.reset`, `W = none` and `KMAX = 22` (R10's reading of D0 and suggested
value; the instance of the test vectors). -/
def Params.suggested : Params := ⟨0, 22⟩

/-- Free value (log 3): the agents' moves after those listed in `State.pending`. -/
opaque Config.environment : Nat → Machine.Event

/-- Free value (log 8): what `ReadX` returns while BUSY (R61, U20). -/
opaque Config.busyInteger : Nat → Int

/-- Free value (log 8): what a read of a register-window word returns while BUSY (R61, U20). -/
opaque Config.busyWord : Nat → Word

/-- Free value (log 9): the content of a table entry not written since reset (R37, U21). -/
opaque Config.unwrittenEntry : Nat → Nat

end Sys2Proof
end

