-- ==== Sys2Proof/Machine/State.lean ====
section
/-! DEFINITION. The state of the CORE (10_state.md, 20_memory.md) as plain data, the reasons a step can stop, and the
state after reset (R37). -/

namespace Sys2Proof.Machine

/-- An integer register: sign bit and magnitude (R21). The sign bit counts only over a non-zero magnitude (R63), so
there is no negative zero; the bit written over a zero magnitude is kept for the limbs that follow (log 7). -/
structure IntReg where
  neg : Bool
  mag : Nat
  deriving DecidableEq, Repr

/-- Outcome codes (R220). -/
inductive OutcomeCode where
  /-- 0 `O_OK`. -/
  | ok
  /-- 1 `O_NO_INVERSE`. -/
  | noInverse
  /-- 2 `O_NOT_FOUND`. -/
  | notFound
  /-- 3 `O_NO_PRIME`. -/
  | noPrime
  /-- 4 `O_OUT_OF_RANGE`. -/
  | outOfRange
  /-- 5 `O_NO_EXPONENT`. -/
  | noExponent
  deriving DecidableEq, Repr

/-- Fault codes (R226). -/
inductive FaultCode where
  /-- 1 `F_OPCODE`. -/
  | opcode
  /-- 2 `F_CONFIG`. -/
  | config
  /-- 3 `F_MODULUS`. -/
  | modulus
  /-- 4 `F_OPERAND`. -/
  | operand
  /-- 5 `F_WIDTH`. -/
  | width
  /-- 6 `F_TABLE`. -/
  | table
  /-- 7 `F_CAPACITY`. -/
  | capacity
  /-- 8 `F_RNG`. -/
  | rng
  deriving DecidableEq, Repr

/-- Working registers of a primality test (R34, R134): the candidate `n`, its decomposition `n - 1 = d * 2^s` and the
round about to run. -/
structure Oracle where
  n : Nat
  s : Nat
  d : Nat
  round : Nat
  deriving DecidableEq, Repr

/-- The two sides of GENKEY's prime phase (R152). -/
inductive Side where
  | p
  | q
  deriving DecidableEq, Repr

/-- Where a running GENKEY stands in R151's pseudocode. -/
inductive KeyStage where
  /-- Head of a side: is it valid, is the limit reached (R153). -/
  | side (σ : Side)
  /-- The draw of a side's candidate. -/
  | candidate (σ : Side)
  /-- The primality test of a side's candidate. -/
  | test (σ : Side) (o : Oracle)
  /-- End of a pass: `if pv and qv` (R154). -/
  | judge
  /-- Phase EXPONENT: the draw of `e` (R156). -/
  | exponent (n phi : Int) (l : Nat)
  /-- Phase INVERSE: `e` is accepted (R159). -/
  | inverse (n phi : Int) (l : Nat) (e : Int)
  deriving DecidableEq, Repr

/-- Working registers of GENKEY (R34, R151). `p = some v` says `p = v` and `pv`; likewise `q`. -/
structure KeyWork where
  lower : Int
  upper : Int
  attempts : Nat
  p : Option Int
  q : Option Int
  stage : KeyStage
  deriving DecidableEq, Repr

/-- The working registers of the running command (R34), where its loop is taken step by step (R13; log 5). -/
inductive Work where
  /-- Accepted; the engine has not moved yet. -/
  | start
  /-- ISPRIME in its loop of rounds. -/
  | oracle (o : Oracle)
  /-- GENKEY under way. -/
  | keygen (g : KeyWork)
  /-- BREAK with its table built, `find_message(n, c, r)` to come. -/
  | search (n c r : Nat)
  deriving DecidableEq, Repr

/-- The engine phase (R35). `STATUS.BUSY` is 1 exactly in `busy`, `STATUS.FAULT` exactly in `faulted`, which holds
`STATUS.FCODE`. -/
inductive Phase where
  | idle
  | busy (w : Work)
  | faulted (c : FaultCode)
  deriving DecidableEq, Repr

/-- The randomness port (R245): no request; a request outstanding; its answer arrived and not yet used. -/
inductive Port where
  | free
  | asked (lo hi : Int)
  | answered (lo hi v : Int)
  deriving DecidableEq, Repr

/-- The table memory (R51): (index, entry) pairs, indices strictly rising (`Table.wf`). An index not listed holds no
value: it was not written since reset (R52; log 9). -/
abbrev Table := List (Nat × Nat)

/-- The machine. The last three fields are the model's own, not the spec's (log 3, log 12). -/
structure State where
  /-- The instance's parameters, shown by PARAM; no step changes them (R32). -/
  params : Params
  /-- `X0` to `X15` (R20). -/
  x : Vector IntReg 16
  /-- Engine phase, with `STATUS.BUSY`, `STATUS.FAULT`, `STATUS.FCODE` and the working registers (R35, R25, R34). -/
  phase : Phase
  /-- `STATUS.DONE` (R25). -/
  done : Bool
  /-- `STATUS.OUTCOME` (R25, R36). -/
  outcome : OutcomeCode
  /-- `CTRL.IE` (R26). -/
  ie : Bool
  /-- `ROUNDS` bits 15:0 (R27). -/
  rounds : BitVec 16
  /-- `KGLIMIT` (R28). -/
  kglimit : Word
  /-- `TABLEN` (R29). -/
  tablen : Word
  /-- `LASTCMD` (R31). -/
  lastcmd : Word
  /-- The table memory (R51). -/
  table : Table
  /-- The randomness port (R245, R247). -/
  port : Port
  /-- Moves the agents have lined up, first to happen first (log 3). -/
  pending : List Event
  /-- Index of the next free value (log 3, log 8). -/
  clock : Nat
  /-- What the last host transaction returned (log 12). -/
  response : Response
  deriving DecidableEq, Repr

/-- Why the machine stops. The spec's own faults (R226) are no member: they are the phase FAULTED, a next state. -/
inductive Fault where
  /-- Raised by a 32-bit host access (aligned) at an offset from 0x1000 on that lies in no register's window: the spec
  puts nothing there (R55, R63; log 10). Safe. -/
  | noSuchAddress
  deriving DecidableEq, Repr

/-- Why a step has no meaning. -/
inductive Refusal where
  /-- Raised by an arm of `exec` whose command has no meaning yet; no arm is such. Safe. -/
  | notModelled (mnemonic : String)
  /-- Raised by a `WriteX` of a value with `abs(v) >= 2^W`, which "The host cannot offer" (R60; log 11). Safe. -/
  | impossibleWrite
  deriving DecidableEq, Repr

/-- The state after reset (R37) of an instance with the parameters `p`. The values of `pending`, `clock` and `response`
are DESIGN CHOICE (log 3, log 12). -/
def State.resetOf (p : Params) : State where
  params := p
  x := Vector.replicate 16 ⟨false, 0⟩
  phase := .idle
  done := false
  outcome := .ok
  ie := false
  rounds := 64
  kglimit := 0x00010000
  tablen := 0
  lastcmd := 0
  table := []
  port := .free
  pending := []
  clock := 0
  response := .quiet

/-- The machine right after reset (R37), on the suggested instance (log 1). -/
def State.reset : State := State.resetOf Params.suggested

end Sys2Proof.Machine
end

