-- ==== Sys2Proof/Machine/Ops.lean ====
section
/-! DEFINITION. The named operations over registers, table, engine phase and randomness port. `State.raise` is the
taking of a fault (R232), `State.complete` the end of a command (R221); there is no return from a fault but reset
(R242), which is `State.resetCore` (R260, R261). -/

namespace Sys2Proof.Machine

/-! ## Integer registers -/

/-- The value of a register (R63): a sign bit over a zero magnitude does not count. -/
def IntReg.value (r : IntReg) : Int := if r.neg then -(r.mag : Int) else (r.mag : Int)

/-- The register holding `v` (R21). -/
def IntReg.ofInt (v : Int) : IntReg := ⟨decide (v < 0), v.natAbs⟩

/-- Word 0 of a register's window (R63): the sign, 0 over a zero magnitude. -/
def IntReg.signWord (r : IntReg) : Word := if r.neg && decide (r.mag ≠ 0) then 1 else 0

/-- Limb `j` of a register's window (R63): the least significant limb is limb 0. -/
def IntReg.limb (r : IntReg) (j : Nat) : Word := BitVec.ofNat 32 (r.mag / 2 ^ (32 * j))

/-- A write of the sign word changes only the sign; bits 31:1 are reserved (R63, R65; log 7). -/
def IntReg.withSign (r : IntReg) (w : Word) : IntReg := ⟨decide (w.toNat % 2 = 1), r.mag⟩

/-- A write of limb `j` changes only that limb (R65). -/
def IntReg.withLimb (r : IntReg) (j : Nat) (w : Word) : IntReg :=
  ⟨r.neg, r.mag / 2 ^ (32 * (j + 1)) * 2 ^ (32 * (j + 1)) + w.toNat * 2 ^ (32 * j) + r.mag % 2 ^ (32 * j)⟩

/-- `x[i]` (R17): the value of register `Xi`. -/
def State.reg (s : State) (i : Reg) : Int := (s.x.get i).value

/-- `x[i] <- v` (R17), without its capacity check, which `State.finish` makes for all destinations at once (R231). -/
def State.setReg (s : State) (i : Reg) (v : Int) : State := { s with x := s.x.set i.val (IntReg.ofInt v) i.isLt }

/-- Several register writes, in order. -/
def State.setRegs (s : State) (writes : List (Reg × Int)) : State :=
  writes.foldl (fun t w => t.setReg w.1 w.2) s

/-- `W` (R10): `none` is unbounded. -/
def widthOf (p : Params) : Option Nat := if p.limbs.val = 0 then none else some (32 * p.limbs.val)

/-- Whether a value fits a register or a table entry of the instance (R11, R20): `abs(v) < 2^W`. -/
def fits (p : Params) (v : Int) : Bool :=
  match widthOf p with
  | none => true
  | some width => decide (v.natAbs < 2 ^ width)

/-- `2^KMAX`, the number of table entries (R51). -/
def tableSize (p : Params) : Nat := 2 ^ p.kmax.val

/-! ## Table memory -/

/-- The entry listed at index `k`; none if nothing was written there since reset (R52; log 9). -/
def Table.read? : Table → Nat → Option Nat
  | [], _ => none
  | (a, v) :: t, k => if a = k then some v else Table.read? t k

/-- `MemWrite(k, 1, v)` (R51): sets entry `k`, changes no other, keeps the indices rising. -/
def Table.write : Table → Nat → Nat → Table
  | [], k, v => [(k, v)]
  | (a, u) :: t, k, v =>
    if k < a then (k, v) :: (a, u) :: t
    else if k = a then (k, v) :: t
    else (a, u) :: Table.write t k v

/-- Consecutive `MemWrite`s from index `k` upward (R182). -/
def Table.writeFrom (t : Table) (k : Nat) : List Nat → Table
  | [] => t
  | v :: vs => Table.writeFrom (Table.write t k v) (k + 1) vs

/-- Every index of the table is above `k`, and the indices strictly rise. -/
def Table.risingFrom : Nat → Table → Bool
  | _, [] => true
  | k, (a, _) :: t => decide (k ≤ a) && Table.risingFrom (a + 1) t

/-- The canonical form: indices strictly rising. An unlisted index holds no value, so no listed entry can equal it. -/
def Table.wf (t : Table) : Bool := Table.risingFrom 0 t

/-- `MemRead(k, 1)` (R51): the entry; a free value where nothing was written since reset (U21; log 9). -/
def State.memRead (s : State) (k : Nat) : Nat := (Table.read? s.table k).getD (Config.unwrittenEntry k)

/-! ## Engine phase -/

/-- `STATUS.BUSY` (R35). -/
def State.busy (s : State) : Bool :=
  match s.phase with
  | .busy _ => true
  | .idle | .faulted _ => false

/-- `STATUS.FAULT` (R35). -/
def State.faulted (s : State) : Bool :=
  match s.phase with
  | .faulted _ => true
  | .idle | .busy _ => false

/-- `raise Fault(F_x)` (R232): BUSY and DONE 0, FAULT 1, FCODE, OUTCOME 0, phase FAULTED; no request stays outstanding
(R247). Nothing else changes (R233, R234). -/
def State.raise (s : State) (c : FaultCode) : State :=
  { s with phase := .faulted c, done := false, outcome := .ok, port := .free }

/-- `end Outcome(O_x)` (R221): BUSY 0, DONE 1, OUTCOME, phase IDLE; no request stays outstanding (R247). Nothing else
changes. -/
def State.complete (s : State) (o : OutcomeCode) : State :=
  { s with phase := .idle, done := true, outcome := o, port := .free }

/-- The engine goes on within the running command: still BUSY, with the given working registers. -/
def State.continueWith (s : State) (w : Work) : State := { s with phase := .busy w }

/-- The effect of reset (R37, R260): every piece of the CORE's state at its reset value, whatever the engine was doing.
The parameters are the instance's (R32). What the agents have lined up, the free-value counter and the bus response are
not state of the CORE (R39) and stay. -/
def State.resetCore (s : State) : State :=
  { State.resetOf s.params with pending := s.pending, clock := s.clock, response := s.response }

/-- A command word is taken from the host (R35): LASTCMD, DONE 0, OUTCOME 0, phase BUSY with nothing done yet. -/
def State.accept (s : State) (w : Word) : State :=
  { s with lastcmd := w, done := false, outcome := .ok, phase := .busy .start, port := .free }

/-- A host write to CMD (R24, R35): dropped unless IDLE; a reserved word raises F_OPCODE at once (R227). -/
def State.issue (s : State) (w : Word) : State :=
  match s.phase with
  | .idle =>
    match decodeWord w with
    | .ok _ => s.accept w
    | .error _ => (s.accept w).raise .opcode
  | .busy _ | .faulted _ => s

/-- The state in which the very next step is the engine's first move on the command word `w`, as after a host write of
`w` to CMD was accepted (log 4). -/
def State.loadCommand (s : State) (w : Word) : State := { s.accept w with pending := .engine :: s.pending }

/-! ## Randomness port -/

/-- What the engine's execution of `Draw(lo, hi)` comes to. -/
inductive Drawn where
  /-- The request was presented just now, or waits for its answer (R245). -/
  | wait (s : State)
  /-- The answer is outside the requested range: F_RNG (R246). -/
  | bad (s : State)
  /-- The answer, the port free again. -/
  | value (v : Int) (s : State)

/-- `Draw(lo, hi)` (R245, R246): one move presents the request, a later one takes the answer (log 18). -/
def State.draw (s : State) (lo hi : Int) : Drawn :=
  match s.port with
  | .free => .wait { s with port := .asked lo hi }
  | .asked _ _ => .wait s
  | .answered l h v =>
    if l ≤ v ∧ v ≤ h then .value v { s with port := .free } else .bad (s.raise .rng)

/-- An answer arrives from the source (R245). Without an outstanding request it is discarded (R247; log 15). With one, it is
taken as that request's answer. DESIGN CHOICE (log 24): R247 discards the late answer to a request that a reset withdrew and does
not say how it is told from the answer to a newer request; answers are bare integers (R245), and the model does not tell them
apart. -/
def State.receive (s : State) (v : Int) : State :=
  match s.port with
  | .asked lo hi => { s with port := .answered lo hi v }
  | .free | .answered _ _ _ => s

/-! ## Which move comes next -/

/-- The next event and the state with it taken off (R283): the first listed one, else the free environment (log 3). -/
def State.takeEvent (s : State) : Event × State :=
  match s.pending with
  | e :: rest => (e, { s with pending := rest })
  | [] => (Config.environment s.clock, { s with clock := s.clock + 1 })

end Sys2Proof.Machine
end

