-- ==== Sys2Proof/Machine/Operands.lean ====
section
/-! DEFINITION. How a command ends with results: the destination writes with their capacity check (R11, R88, R231),
and the table write with its own (R11, R182). Every operand form is a register number (R84), read by `State.reg`. -/

namespace Sys2Proof.Machine

/-- The end of a command with results (R88, R221, R231): if every value fits, all destinations are written together and
the command completes `O_OK`; else F_CAPACITY, and none is written. -/
def State.finish (s : State) (writes : List (Reg × Int)) : State :=
  if writes.all fun w => fits s.params w.2 then (s.setRegs writes).complete .ok else s.raise .capacity

/-- A Boolean result as an integer (R33). -/
def boolValue (b : Bool) : Int := if b then 1 else 0

/-- `build_table(e, n, r)` (R182): entries `0 .. r-1` in ascending order, `TABLEN` last. -/
def State.buildTable (s : State) (e n r : Nat) : State :=
  { s with table := Table.writeFrom s.table 0 (tableEntries e n r), tablen := BitVec.ofNat 32 r }

/-- Whether every entry `build_table(e, n, r)` writes fits the instance (R11; log 14). -/
def tableFits (p : Params) (e n r : Nat) : Bool := (tableEntries e n r).all fun v => fits p v

end Sys2Proof.Machine
end

