-- ==== Sys2Proof/Machine/Breaker.lean ====
section
/-! DEFINITION. The Small-Message Breaker's commands (44_breaker.md). BREAK takes two engine moves, because `TABLEN`, which
a host may read while BUSY (R61), changes between them (log 5). -/

namespace Sys2Proof.Machine

/-- BUILDTAB (R181). -/
def execBuildtab (rs1 rs2 rs3 : Reg) (s : State) : Host.Outcome State Fault Refusal :=
  let e := s.reg rs1
  let n := s.reg rs2
  let r := s.reg rs3
  if n ≤ 0 then .next (s.raise .modulus)
  else if e < 0 then .next (s.raise .operand)
  else if r < 1 ∨ r > tableSize s.params then .next (s.raise .width)
  else if tableFits s.params e.toNat n.toNat r.toNat then
    .next ((s.buildTable e.toNat n.toNat r.toNat).complete .ok)
  else .next (s.raise .capacity)

/-- TABRD (R184): the index is the whole register value; only entries below `TABLEN` may be read (R52). -/
def execTabrd (rd rs1 : Reg) (s : State) : Host.Outcome State Fault Refusal :=
  let k := s.reg rs1
  if k < 0 ∨ k ≥ s.tablen.toNat then .next (s.raise .table)
  else .next (s.finish [(rd, s.memRead k.toNat)])

/-- `find_message` and the end of FINDMSG or BREAK (R185, R188): an absent result is the outcome `O_NOT_FOUND`. -/
def searchAndEnd (rd : Reg) (n c r : Nat) (s : State) : State :=
  match findMessage s.memRead n c r with
  | none => s.complete .notFound
  | some v => s.finish [(rd, v)]

/-- FINDMSG (R188). -/
def execFindmsg (rd rs1 rs2 rs3 : Reg) (s : State) : Host.Outcome State Fault Refusal :=
  let n := s.reg rs1
  let c := s.reg rs2
  let r := s.reg rs3
  if n ≤ 0 then .next (s.raise .modulus)
  else if c < 0 then .next (s.raise .operand)
  else if r < 1 ∨ r > tableSize s.params then .next (s.raise .width)
  else if r > s.tablen.toNat then .next (s.raise .table)
  else .next (searchAndEnd rd n.toNat c.toNat r.toNat s)

/-- BREAK's checks and its table (R186): `r = 2^k`. -/
def breakStart (rs1 rs2 rs3 rs4 : Reg) (s : State) : State :=
  let e := s.reg rs1
  let n := s.reg rs2
  let c := s.reg rs3
  let k := s.reg rs4
  if n ≤ 0 then s.raise .modulus
  else if e < 0 ∨ c < 0 then s.raise .operand
  else if k < 0 ∨ k > s.params.kmax.val then s.raise .width
  else if tableFits s.params e.toNat n.toNat (2 ^ k.toNat) then
    (s.buildTable e.toNat n.toNat (2 ^ k.toNat)).continueWith (.search n.toNat c.toNat (2 ^ k.toNat))
  else s.raise .capacity

/-- BREAK (R186): one engine move, first the table, then the search. -/
def execBreakmsg (rd rs1 rs2 rs3 rs4 : Reg) (s : State) : Host.Outcome State Fault Refusal :=
  match s.phase with
  | .busy (.search n c r) => .next (searchAndEnd rd n c r s)
  | .idle | .faulted _ | .busy .start | .busy (.oracle _) | .busy (.keygen _) =>
    .next (breakStart rs1 rs2 rs3 rs4 s)

end Sys2Proof.Machine
end

