-- ==== Sys2Proof/Machine/Cipher.lean ====
section
/-! DEFINITION. The Cipher's commands (43_cipher.md). -/

namespace Sys2Proof.Machine

/-- ENCRYPT (R171): a message outside `[0, n)` is the outcome `O_OUT_OF_RANGE`. -/
def execEncrypt (rd rs1 rs2 rs3 : Reg) (s : State) : Host.Outcome State Fault Refusal :=
  let m := s.reg rs1
  let e := s.reg rs2
  let n := s.reg rs3
  if n ≤ 0 then .next (s.raise .modulus)
  else if e < 0 then .next (s.raise .operand)
  else if m < 0 ∨ m ≥ n then .next (s.complete .outOfRange)
  else .next (s.finish [(rd, modpow m.toNat e.toNat n.toNat)])

/-- DECRYPT (R173): no range check of the ciphertext. -/
def execDecrypt (rd rs1 rs2 rs3 : Reg) (s : State) : Host.Outcome State Fault Refusal :=
  let c := s.reg rs1
  let d := s.reg rs2
  let n := s.reg rs3
  if n ≤ 0 then .next (s.raise .modulus)
  else if d < 0 ∨ c < 0 then .next (s.raise .operand)
  else .next (s.finish [(rd, modpow c.toNat d.toNat n.toNat)])

end Sys2Proof.Machine
end

