-- ==== Sys2Proof/Machine/Primality.lean ====
section
/-! DEFINITION. The Primality Oracle's commands (41_primality.md). `is_probable_prime` consumes draws, so its loop is
taken one engine move at a time (R13): `enterOracle` is what comes before the loop, `State.oracleMove` one move of it. -/

namespace Sys2Proof.Machine

/-- WITNESS (R131). -/
def execWitness (rd rs1 rs2 rs3 rs4 : Reg) (s : State) : Host.Outcome State Fault Refusal :=
  let a := s.reg rs1
  let k := s.reg rs2
  let d := s.reg rs3
  let n := s.reg rs4
  if n ≤ 0 then .next (s.raise .modulus)
  else if a < 0 ∨ k < 0 ∨ d < 0 then .next (s.raise .operand)
  else .next (s.finish [(rd, boolValue (witnessTest a.toNat k.toNat d.toNat n.toNat))])

/-- Entering `is_probable_prime` (R134). -/
inductive Entered where
  /-- Decided without a draw: `n < 2` or `n = 2`. -/
  | decided (prime : Bool)
  /-- Rounds are to be run. -/
  | rounds (o : Oracle)

/-- `is_probable_prime(n)` up to its loop (R134, R130). -/
def enterOracle (n : Int) : Entered :=
  if n < 2 then .decided false
  else if n = 2 then .decided true
  else
    let m := n.toNat
    let k := tz (m - 1)
    .rounds ⟨m, k, (m - 1) / 2 ^ k, 1⟩

/-- What one engine move in the loop of `is_probable_prime` comes to. -/
inductive OracleMove where
  /-- The move ends with the draw not answered yet, or with F_RNG. -/
  | stop (s : State)
  /-- The loop goes on: a zero draw was discarded, or a round passed. -/
  | again (o : Oracle) (s : State)
  /-- The function returns. -/
  | verdict (prime : Bool) (s : State)

/-- One engine move in the loop of `is_probable_prime` (R134): all `ROUNDS` rounds must pass (R136), the first failing
round decides (R137), a zero draw is discarded and drawn again. -/
def State.oracleMove (s : State) (o : Oracle) : OracleMove :=
  if s.rounds.toNat < o.round then .verdict true s
  else
    match s.draw 0 (o.n - 1) with
    | .wait t => .stop t
    | .bad t => .stop t
    | .value a t =>
      if a = 0 then .again o t
      else if witnessTest a.toNat o.s o.d o.n then .again { o with round := o.round + 1 } t
      else .verdict false t

/-- ISPRIME in its loop (R135). -/
def isprimeLoop (rd : Reg) (o : Oracle) (s : State) : State :=
  match s.oracleMove o with
  | .stop t => t
  | .again o' t => t.continueWith (.oracle o')
  | .verdict prime t => t.finish [(rd, boolValue prime)]

/-- ISPRIME before its loop (R135): `ROUNDS = 0` is checked first, whatever `n` is. -/
def isprimeStart (rd rs1 : Reg) (s : State) : State :=
  if s.rounds = 0 then s.raise .config
  else
    match enterOracle (s.reg rs1) with
    | .decided prime => s.finish [(rd, boolValue prime)]
    | .rounds o => s.continueWith (.oracle o)

/-- ISPRIME (R135): one engine move. -/
def execIsprime (rd rs1 : Reg) (s : State) : Host.Outcome State Fault Refusal :=
  match s.phase with
  | .busy (.oracle o) => .next (isprimeLoop rd o s)
  | .idle | .faulted _ | .busy .start | .busy (.keygen _) | .busy (.search _ _ _) => .next (isprimeStart rd rs1 s)

end Sys2Proof.Machine
end

