-- ==== Sys2Proof/Machine/Keygen.lean ====
section
/-! DEFINITION. The Key Generator's command GENKEY (42_keygen.md), one engine move at a time (R13): it may never finish
(R161). Each stage of `KeyStage` is one place of R151's pseudocode. -/

namespace Sys2Proof.Machine

/-- The accepted candidate of a side, if it is valid (`pv`, `qv` of R151). -/
def KeyWork.accepted (g : KeyWork) : Side → Option Int
  | .p => g.p
  | .q => g.q

/-- The place after a side is dealt with (R152): `p` first, then `q`. -/
def afterSide : Side → KeyStage
  | .p => .side .q
  | .q => .judge

/-- A side's candidate was tested (R152): accepted, it is cached; either way the pass goes on. -/
def KeyWork.tested (g : KeyWork) (σ : Side) (v : Int) (prime : Bool) : KeyWork :=
  if prime then
    match σ with
    | .p => { g with p := some v, stage := afterSide .p }
    | .q => { g with q := some v, stage := afterSide .q }
  else { g with stage := afterSide σ }

/-- Head of a side (R151, R153): skipped when valid; else the attempt limit, then a candidate. -/
def keySide (σ : Side) (g : KeyWork) (s : State) : State :=
  match g.accepted σ with
  | some _ => s.continueWith (.keygen { g with stage := afterSide σ })
  | none =>
    if s.kglimit ≠ 0 ∧ g.attempts = s.kglimit.toNat then s.complete .noPrime
    else s.continueWith (.keygen { g with attempts := g.attempts + 1, stage := .candidate σ })

/-- The candidate's draw and the entry of its primality test (R151, R152). -/
def keyCandidate (σ : Side) (g : KeyWork) (s : State) : State :=
  match s.draw g.lower g.upper with
  | .wait t => t
  | .bad t => t
  | .value v t =>
    match enterOracle v with
    | .decided prime => t.continueWith (.keygen (g.tested σ v prime))
    | .rounds o => t.continueWith (.keygen { g with stage := .test σ o })

/-- One move of the candidate's primality test (R152). -/
def keyTest (σ : Side) (o : Oracle) (g : KeyWork) (s : State) : State :=
  match s.oracleMove o with
  | .stop t => t
  | .again o' t => t.continueWith (.keygen { g with stage := .test σ o' })
  | .verdict prime t => t.continueWith (.keygen (g.tested σ o.n prime))

/-- Phase MODULUS and the check before phase EXPONENT (R155 to R157). -/
def keyModulus (p q : Int) (g : KeyWork) (s : State) : State :=
  let n := p * q
  let phi := (p - 1) * (q - 1)
  let l := clog2 n.toNat
  if phi - 1 < l + 1 then s.complete .noExponent
  else s.continueWith (.keygen { g with stage := .exponent n phi l })

/-- End of a pass (R151, R154): equal primes invalidate the `q` side. -/
def keyJudge (g : KeyWork) (s : State) : State :=
  match g.p, g.q with
  | some p, some q =>
    if p ≠ q then keyModulus p q g s
    else s.continueWith (.keygen { g with q := none, stage := .side .p })
  | some _, none => s.continueWith (.keygen { g with stage := .side .p })
  | none, some _ => s.continueWith (.keygen { g with stage := .side .p })
  | none, none => s.continueWith (.keygen { g with stage := .side .p })

/-- Phase EXPONENT (R156): rejection sampling over `[L + 1, phi - 1]`. -/
def keyExponent (n phi : Int) (l : Nat) (g : KeyWork) (s : State) : State :=
  match s.draw (l + 1) (phi - 1) with
  | .wait t => t
  | .bad t => t
  | .value e t =>
    if gcd e phi = 1 then t.continueWith (.keygen { g with stage := .inverse n phi l e })
    else t.continueWith (.keygen { g with stage := .exponent n phi l })

/-- Phase INVERSE (R159) and the results. R159: the inverse is never absent here; were it, another exponent would be
drawn (log 19). -/
def keyInverse (rd rd2 rd3 : Reg) (n phi : Int) (l : Nat) (e : Int) (g : KeyWork) (s : State) : State :=
  match modinv e phi with
  | none => s.continueWith (.keygen { g with stage := .exponent n phi l })
  | some d => s.finish [(rd, e), (rd2, d), (rd3, n)]

/-- One move of a running GENKEY. -/
def genkeyMove (rd rd2 rd3 : Reg) (g : KeyWork) (s : State) : State :=
  match g.stage with
  | .side σ => keySide σ g s
  | .candidate σ => keyCandidate σ g s
  | .test σ o => keyTest σ o g s
  | .judge => keyJudge g s
  | .exponent n phi l => keyExponent n phi l g s
  | .inverse n phi l e => keyInverse rd rd2 rd3 n phi l e g s

/-- GENKEY's checks and the start of its prime phase (R151). -/
def genkeyStart (rs1 rs2 : Reg) (s : State) : State :=
  let lower := s.reg rs1
  let upper := s.reg rs2
  if s.rounds = 0 then s.raise .config
  else if lower < 0 ∨ upper < 0 then s.raise .operand
  else if lower > upper then s.raise .operand
  else s.continueWith (.keygen ⟨lower, upper, 0, none, none, .side .p⟩)

/-- GENKEY (R151): one engine move. -/
def execGenkey (rd rd2 rd3 rs1 rs2 : Reg) (s : State) : Host.Outcome State Fault Refusal :=
  match s.phase with
  | .busy (.keygen g) => .next (genkeyMove rd rd2 rd3 g s)
  | .idle | .faulted _ | .busy .start | .busy (.oracle _) | .busy (.search _ _ _) => .next (genkeyStart rs1 rs2 s)

end Sys2Proof.Machine
end

