-- ==== Sys2Proof/Machine/Modarith.lean ====
section
/-! DEFINITION. The Modular Arithmetic Engine's commands (40_modarith.md). Checks in the order of R116 and R238. -/

namespace Sys2Proof.Machine

/-- MODMUL (R101). -/
def execModmul (rd rs1 rs2 rs3 : Reg) (s : State) : Host.Outcome State Fault Refusal :=
  let a := s.reg rs1
  let b := s.reg rs2
  let m := s.reg rs3
  if m ≤ 0 then .next (s.raise .modulus)
  else if a < 0 ∨ b < 0 then .next (s.raise .operand)
  else .next (s.finish [(rd, modmul a.toNat b.toNat m.toNat)])

/-- MODPOW (R104). -/
def execModpow (rd rs1 rs2 rs3 : Reg) (s : State) : Host.Outcome State Fault Refusal :=
  let b := s.reg rs1
  let e := s.reg rs2
  let m := s.reg rs3
  if m ≤ 0 then .next (s.raise .modulus)
  else if e < 0 ∨ b < 0 then .next (s.raise .operand)
  else .next (s.finish [(rd, modpow b.toNat e.toNat m.toNat)])

/-- GCD (R108): no checks. -/
def execGcd (rd rs1 rs2 : Reg) (s : State) : Host.Outcome State Fault Refusal :=
  .next (s.finish [(rd, gcd (s.reg rs1) (s.reg rs2))])

/-- XGCD (R111): no checks but the capacity of the three results. -/
def execXgcd (rd rd2 rd3 rs1 rs2 : Reg) (s : State) : Host.Outcome State Fault Refusal :=
  match xgcd (s.reg rs1) (s.reg rs2) with
  | (cu, cv, g) => .next (s.finish [(rd, cu), (rd2, cv), (rd3, g)])

/-- MODINV (R115): an absent inverse is the outcome `O_NO_INVERSE`. -/
def execModinv (rd rs1 rs2 : Reg) (s : State) : Host.Outcome State Fault Refusal :=
  let a := s.reg rs1
  let m := s.reg rs2
  if m ≤ 0 then .next (s.raise .modulus)
  else
    match modinv a m with
    | none => .next (s.complete .noInverse)
    | some r => .next (s.finish [(rd, r)])

end Sys2Proof.Machine
end

