-- ==== Sys2Proof/Machine/System.lean ====
section
/-! DEFINITION. The system command NOP (45_system.md). -/

namespace Sys2Proof.Machine

/-- NOP (R210): it only completes. -/
def execNop (s : State) : Host.Outcome State Fault Refusal := .next (s.complete .ok)

end Sys2Proof.Machine
end

