-- ==== Sys2Proof/Machine/Dispatch.lean ====
section
/-! DEFINITION. The engine's next move on a command: one arm per constructor, each one direct call of its meaning. -/

namespace Sys2Proof.Machine

/-- The engine's next move on the command `i`. -/
def exec (i : Instr) (s : State) : Host.Outcome State Fault Refusal :=
  match i with
  | .nop => Sys2Proof.Machine.execNop s
  | .modmul rd rs1 rs2 rs3 => Sys2Proof.Machine.execModmul rd rs1 rs2 rs3 s
  | .modpow rd rs1 rs2 rs3 => Sys2Proof.Machine.execModpow rd rs1 rs2 rs3 s
  | .gcd rd rs1 rs2 => Sys2Proof.Machine.execGcd rd rs1 rs2 s
  | .xgcd rd rd2 rd3 rs1 rs2 => Sys2Proof.Machine.execXgcd rd rd2 rd3 rs1 rs2 s
  | .modinv rd rs1 rs2 => Sys2Proof.Machine.execModinv rd rs1 rs2 s
  | .witness rd rs1 rs2 rs3 rs4 => Sys2Proof.Machine.execWitness rd rs1 rs2 rs3 rs4 s
  | .isprime rd rs1 => Sys2Proof.Machine.execIsprime rd rs1 s
  | .genkey rd rd2 rd3 rs1 rs2 => Sys2Proof.Machine.execGenkey rd rd2 rd3 rs1 rs2 s
  | .encrypt rd rs1 rs2 rs3 => Sys2Proof.Machine.execEncrypt rd rs1 rs2 rs3 s
  | .decrypt rd rs1 rs2 rs3 => Sys2Proof.Machine.execDecrypt rd rs1 rs2 rs3 s
  | .buildtab rs1 rs2 rs3 => Sys2Proof.Machine.execBuildtab rs1 rs2 rs3 s
  | .findmsg rd rs1 rs2 rs3 => Sys2Proof.Machine.execFindmsg rd rs1 rs2 rs3 s
  | .breakmsg rd rs1 rs2 rs3 rs4 => Sys2Proof.Machine.execBreakmsg rd rs1 rs2 rs3 rs4 s
  | .tabrd rd rs1 => Sys2Proof.Machine.execTabrd rd rs1 s

end Sys2Proof.Machine
end

