-- ==== Sys2Proof/Machine/Flags.lean ====
section
/-! DEFINITION. The CORE has no arithmetic flags and no condition codes (R33): no command computes one. This file holds
the words a host reads of the machine's status: STATUS (R25), CTRL (R26), PARAM (R32), and the interrupt line (R240). -/

namespace Sys2Proof.Machine

/-- The code of an outcome (R220). -/
def OutcomeCode.code : OutcomeCode → Nat
  | .ok => 0
  | .noInverse => 1
  | .notFound => 2
  | .noPrime => 3
  | .outOfRange => 4
  | .noExponent => 5

/-- The code of a fault (R226). -/
def FaultCode.code : FaultCode → Nat
  | .opcode => 1
  | .config => 2
  | .modulus => 3
  | .operand => 4
  | .width => 5
  | .table => 6
  | .capacity => 7
  | .rng => 8

/-- `STATUS.FCODE` (R25, R226): 0 when FAULT = 0. -/
def State.fcode (s : State) : Nat :=
  match s.phase with
  | .faulted c => c.code
  | .idle | .busy _ => 0

/-- STATUS (R25): BUSY bit 0, DONE bit 1, FAULT bit 2, OUTCOME bits 7:4, FCODE bits 11:8, the rest 0. -/
def State.statusWord (s : State) : Word :=
  BitVec.ofNat 32 (s.busy.toNat + 2 * s.done.toNat + 4 * s.faulted.toNat + 16 * s.outcome.code + 256 * s.fcode)

/-- CTRL (R26): IE in bit 0; SRST reads 0. -/
def State.ctrlWord (s : State) : Word := if s.ie then 1 else 0

/-- PARAM (R32): KMAX in bits 7:0, `W / 32` in bits 31:16. -/
def paramWord (p : Params) : Word := BitVec.ofNat 32 (p.kmax.val + 65536 * p.limbs.val)

/-- The interrupt line (R240): `irq = CTRL.IE and (STATUS.DONE or STATUS.FAULT)`. -/
def State.irq (s : State) : Bool := s.ie && (s.done || s.faulted)

end Sys2Proof.Machine
end

