-- ==== Sys2Proof/Machine/HostPort.lean ====
section
/-! DEFINITION. The host's transactions (20_memory.md): the control map (R55), permission by engine phase (R61), the
register window of a finite-`W` instance (R63 to R65), bus errors (R66). -/

namespace Sys2Proof.Machine

/-- Whether the engine is IDLE (R35). -/
def State.isIdle (s : State) : Bool :=
  match s.phase with
  | .idle => true
  | .busy _ | .faulted _ => false

/-- A 32-bit read below offset 0x1000 (R55): unmapped offsets and CMD read 0. No read changes the CORE (R67). -/
def State.controlRead (s : State) (off : Nat) : Word :=
  match off with
  | 0x04 => s.statusWord
  | 0x08 => s.ctrlWord
  | 0x0C => s.rounds.setWidth 32
  | 0x10 => s.kglimit
  | 0x14 => s.tablen
  | 0x18 => s.lastcmd
  | 0x1C => paramWord s.params
  | _ => 0

/-- A write to STATUS (R25): a 1 in bit 1 clears DONE; dropped unless IDLE (R61). -/
def State.writeStatus (s : State) (w : Word) : State :=
  if s.isIdle && w.getLsbD 1 then { s with done := false } else s

/-- A write to CTRL (R26): bit 1 is the soft reset, and then the other bits are ignored (R261); else bit 0 is IE.
Performed in every phase. -/
def State.writeCtrl (s : State) (w : Word) : State :=
  if w.getLsbD 1 then s.resetCore else { s with ie := w.getLsbD 0 }

/-- A 32-bit write below offset 0x1000 (R55): writes to read-only and unmapped offsets are ignored; ROUNDS and KGLIMIT
are written only while IDLE (R61). -/
def State.controlWrite (s : State) (off : Nat) (w : Word) : State :=
  match off with
  | 0x00 => s.issue w
  | 0x04 => s.writeStatus w
  | 0x08 => s.writeCtrl w
  | 0x0C => if s.isIdle then { s with rounds := w.setWidth 16 } else s
  | 0x10 => if s.isIdle then { s with kglimit := w } else s
  | _ => s

/-- The register and the word of its `W/32 + 1` words at an aligned offset of the register window (R63); none outside
the window. For `W = none` there is no window. -/
def windowSlot (p : Params) (off : Nat) : Option (Reg × Nat) :=
  if p.limbs.val = 0 ∨ off < 0x1000 then none
  else
    let size := 4 * (p.limbs.val + 1)
    let i := (off - 0x1000) / size
    if h : i < 16 then some (⟨i, h⟩, (off - 0x1000) % size / 4) else none

/-- A word of the register window: word 0 the sign, word `j + 1` limb `j` (R63). -/
def State.windowRead (s : State) (i : Reg) (word : Nat) : Word :=
  if word = 0 then (s.x.get i).signWord else (s.x.get i).limb (word - 1)

/-- A write of one word of the register window (R65); dropped unless IDLE (R61). -/
def State.windowWrite (s : State) (i : Reg) (word : Nat) (w : Word) : State :=
  if s.isIdle then
    let r := s.x.get i
    { s with x := s.x.set i.val (if word = 0 then r.withSign w else r.withLimb (word - 1) w) i.isLt }
  else s

/-- What the transaction returns (log 12). -/
def State.respond (s : State) (r : Response) : State := { s with response := r }

/-- `WriteX` (R60, R61): performed while IDLE, else dropped. The host cannot offer a value that does not fit (log 11). -/
def State.writeX (s : State) (i : Reg) (v : Int) : Host.Outcome State Fault Refusal :=
  if fits s.params v then .next ((if s.isIdle then s.setReg i v else s).respond .ack)
  else .refused .impossibleWrite

/-- `ReadX` (R60, R61): the register's value; while BUSY an unspecified one (log 8). -/
def State.readX (s : State) (i : Reg) : State :=
  if s.busy then { s with clock := s.clock + 1, response := .integer (Config.busyInteger s.clock) }
  else s.respond (.integer (s.reg i))

/-- `WriteReg` (R60): a misaligned offset is refused with a bus error (R66). -/
def State.writeReg (s : State) (off : Nat) (w : Word) : Host.Outcome State Fault Refusal :=
  if off % 4 ≠ 0 then .next (s.respond .busError)
  else if off < 0x1000 then .next ((s.controlWrite off w).respond .ack)
  else
    match windowSlot s.params off with
    | none => .fault .noSuchAddress
    | some (i, word) => .next ((s.windowWrite i word w).respond .ack)

/-- `ReadReg` (R60): a misaligned offset is refused with a bus error (R66); a window word read while BUSY is unspecified
(R61; log 8). -/
def State.readReg (s : State) (off : Nat) : Host.Outcome State Fault Refusal :=
  if off % 4 ≠ 0 then .next (s.respond .busError)
  else if off < 0x1000 then .next (s.respond (.word (s.controlRead off)))
  else
    match windowSlot s.params off with
    | none => .fault .noSuchAddress
    | some (i, word) =>
      if s.busy then .next { s with clock := s.clock + 1, response := .word (Config.busyWord s.clock) }
      else .next (s.respond (.word (s.windowRead i word)))

/-- One host transaction (R60, R61, R66). -/
def State.transact (s : State) : Transaction → Host.Outcome State Fault Refusal
  | .writeX i v => s.writeX i v
  | .readX i => .next (s.readX i)
  | .writeReg off w => s.writeReg off w
  | .readReg off => s.readReg off
  | .oddAccess _ _ => .next (s.respond .busError)
  | .hardReset => .next (s.resetCore.respond .quiet)

end Sys2Proof.Machine
end

