-- ==== Sys2Proof/Machine/Engine.lean ====
section
/-! DEFINITION. One move of one agent (R283): the host's transaction, the source's answer, the engine's move. -/

namespace Sys2Proof.Machine

/-- The engine's move (R35): while BUSY, the next move on the command that LASTCMD holds (R31); in IDLE and FAULTED the
engine does nothing (R242, R262; log 15). A word that does not decode is never BUSY (R227); were it, it would raise
F_OPCODE (log 22). -/
def State.engineMove (s : State) : Host.Outcome State Fault Refusal :=
  match s.phase with
  | .busy _ =>
    match decodeWord s.lastcmd with
    | .ok i => exec i s
    | .error _ => .next (s.raise .opcode)
  | .idle | .faulted _ => .next s

/-- One event on the state from which it was taken off. -/
def State.react (s : State) : Event → Host.Outcome State Fault Refusal
  | .host t => s.transact t
  | .answer v => .next (s.receive v)
  | .engine => s.engineMove

end Sys2Proof.Machine
end

