-- ==== Sys2Proof/Machine/Step.lean ====
section
/-! DEFINITION. The step of the machine: the next event, in one total order (R70, R283). -/

namespace Sys2Proof.Machine

/-- One step: one move of one agent. -/
def step (s : State) : Host.Outcome State Fault Refusal :=
  match s.takeEvent with
  | (e, t) => t.react e

/-- The state in which the next step runs the command whose `nbits` bits are `w`: as after a host write of it to CMD was
accepted, the engine's move next (log 4). -/
def State.withFetchWord (s : State) (nbits w : Nat) : State := s.loadCommand (BitVec.ofNat 32 (w % 2 ^ nbits))

end Sys2Proof.Machine
end

