-- ==== Sys2Proof/Safety.lean ====
section
/-! DEFINITION. The terms claims are stated in: which registers a command reads and writes, what a completion and a fault
change, how a run ends (R283), and the invariant of the machine. -/

namespace Sys2Proof

/-! ## The operands of a command -/

/-- The registers a command may write (R22, R83). -/
def Instr.destinations : Instr → List Reg
  | .nop | .buildtab .. => []
  | .modmul rd .. | .modpow rd .. | .gcd rd .. | .modinv rd .. | .witness rd .. | .isprime rd .. | .encrypt rd ..
  | .decrypt rd .. | .findmsg rd .. | .breakmsg rd .. | .tabrd rd .. => [rd]
  | .xgcd rd rd2 rd3 .. | .genkey rd rd2 rd3 .. => [rd, rd2, rd3]

/-- The operand that serves as a modulus, for the nine commands that have one (R228). -/
def Instr.modulus : Instr → Option Reg
  | .modmul _ _ _ m | .modpow _ _ _ m | .modinv _ _ m | .witness _ _ _ _ m | .encrypt _ _ _ m | .decrypt _ _ _ m
  | .buildtab _ m _ | .findmsg _ m _ _ | .breakmsg _ _ m _ _ => some m
  | .nop | .gcd .. | .xgcd .. | .isprime .. | .genkey .. | .tabrd .. => none

/-- The operands that raise F_OPERAND when negative (R229). -/
def Instr.nonNegative : Instr → List Reg
  | .modmul _ a b _ => [a, b]
  | .modpow _ b e _ => [b, e]
  | .witness _ a s d _ => [a, s, d]
  | .genkey _ _ _ lower upper => [lower, upper]
  | .encrypt _ _ e _ => [e]
  | .decrypt _ c d _ => [c, d]
  | .buildtab e _ _ => [e]
  | .findmsg _ _ c _ => [c]
  | .breakmsg _ e _ c _ => [e, c]
  | .nop | .gcd .. | .xgcd .. | .modinv .. | .isprime .. | .tabrd .. => []

/-- The commands that use the primality oracle, hence `ROUNDS` and draws (R230, R245). -/
def Instr.draws : Instr → Bool
  | .isprime .. | .genkey .. => true
  | .nop | .modmul .. | .modpow .. | .gcd .. | .xgcd .. | .modinv .. | .witness .. | .encrypt .. | .decrypt ..
  | .buildtab .. | .findmsg .. | .breakmsg .. | .tabrd .. => false

/-- The commands that write the table (R50). -/
def Instr.writesTable : Instr → Bool
  | .buildtab .. | .breakmsg .. => true
  | .nop | .modmul .. | .modpow .. | .gcd .. | .xgcd .. | .modinv .. | .witness .. | .isprime .. | .genkey ..
  | .encrypt .. | .decrypt .. | .findmsg .. | .tabrd .. => false

namespace Machine

/-! ## What changes from `s` to `t` -/

/-- What no command changes: the parameters, CTRL, ROUNDS, KGLIMIT, LASTCMD (R50), and the model's own fields. -/
structure SameControls (s t : State) : Prop where
  params : t.params = s.params
  ie : t.ie = s.ie
  rounds : t.rounds = s.rounds
  kglimit : t.kglimit = s.kglimit
  lastcmd : t.lastcmd = s.lastcmd
  pending : t.pending = s.pending
  clock : t.clock = s.clock
  response : t.response = s.response

/-- Every register not in `ds` is unchanged. -/
def SameRegsBut (ds : List Reg) (s t : State) : Prop := ∀ r : Reg, r ∉ ds → t.x.get r = s.x.get r

/-- TABLEN and every table entry are unchanged. -/
def SameTable (s t : State) : Prop :=
  t.tablen = s.tablen ∧ ∀ k, Table.read? t.table k = Table.read? s.table k

/-- The command has completed with outcome `o`, having written at most the registers `ds` and not the table. -/
structure Completes (o : OutcomeCode) (ds : List Reg) (s t : State) : Prop where
  phase : t.phase = .idle
  done : t.done = true
  outcome : t.outcome = o
  port : t.port = .free
  controls : SameControls s t
  regs : SameRegsBut ds s t
  table : SameTable s t

/-- The fault `c` was raised: phase FAULTED with its code, DONE and OUTCOME 0, no request outstanding, and every register,
table entry and control register as before (R232 to R234). -/
structure Faults (c : FaultCode) (s t : State) : Prop where
  phase : t.phase = .faulted c
  done : t.done = false
  outcome : t.outcome = .ok
  port : t.port = .free
  controls : SameControls s t
  regs : SameRegsBut [] s t
  table : SameTable s t

/-! ## Pairs of the search (R187) -/

/-- `(i, j)` matches: `modinv(T[i], n)` is present and `T[j] = (c * modinv(T[i], n)) mod n`. -/
def Matches (T : Nat → Nat) (n c i j : Nat) : Prop :=
  ∃ inv : Int, modinv (T i) n = some inv ∧ (T j : Int) = c * inv % n

/-- `(i, j)` is the lexicographically smallest matching pair with `1 <= i, j <= r - 1`. -/
def FirstMatch (T : Nat → Nat) (n c r i j : Nat) : Prop :=
  1 ≤ i ∧ i < r ∧ 1 ≤ j ∧ j < r ∧ Matches T n c i j ∧
    ∀ i' j', 1 ≤ i' → i' < r → 1 ≤ j' → j' < r → Matches T n c i' j' → i < i' ∨ i = i' ∧ j ≤ j'

/-! ## The end of a run (R283) -/

/-- The last command has completed, FAULT is 0 and no request is outstanding. R283 does not say whether a run whose host has
cleared DONE since (R25, R36) still counts. DESIGN CHOICE (log 25): DONE must be 1 now, so in such a state the run counts as
none of the three. -/
def State.endedWell (s : State) : Prop := s.phase = .idle ∧ s.done = true ∧ s.port = .free

/-- The run has gone wrong: FAULT is 1. -/
def State.wentWrong (s : State) : Prop := s.faulted = true

/-- The run has not ended: BUSY is 1. -/
def State.running (s : State) : Prop := s.busy = true

/-! ## The invariant -/

/-- The working registers of a primality test hold the decomposition of R130, for a candidate that needs draws. -/
def OracleOk (o : Oracle) : Prop := 3 ≤ o.n ∧ o.s = tz (o.n - 1) ∧ o.d = (o.n - 1) / 2 ^ o.s

/-- GENKEY has two different accepted candidates, and `n`, `phi`, `L` are theirs (R155, R156). -/
def KeyModulus (g : KeyWork) (n phi : Int) (l : Nat) : Prop :=
  ∃ p q, g.p = some p ∧ g.q = some q ∧ p ≠ q ∧ n = p * q ∧ phi = (p - 1) * (q - 1) ∧ l = clog2 n.toNat ∧
    (l : Int) + 1 ≤ phi - 1

/-- The stage of a running GENKEY agrees with its other working registers. -/
def KeyStageOk (g : KeyWork) : KeyStage → Prop
  | .side _ => True
  | .candidate σ => g.accepted σ = none
  | .test σ o => g.accepted σ = none ∧ OracleOk o ∧ g.lower ≤ o.n ∧ (o.n : Int) ≤ g.upper
  | .judge => True
  | .exponent n phi l => KeyModulus g n phi l
  | .inverse n phi l e => KeyModulus g n phi l ∧ (l : Int) + 1 ≤ e ∧ e ≤ phi - 1 ∧ gcd e phi = 1

/-- The working registers of a running GENKEY (R151, R155). -/
def KeyOk (g : KeyWork) : Prop :=
  0 ≤ g.lower ∧ g.lower ≤ g.upper ∧
    (∀ σ v, g.accepted σ = some v → 2 ≤ v ∧ g.lower ≤ v ∧ v ≤ g.upper) ∧ KeyStageOk g g.stage

/-- The command that may have these working registers (R34). -/
def workOf : Instr → Work → Bool
  | _, .start => true
  | .isprime .., .oracle _ => true
  | .genkey .., .keygen _ => true
  | .breakmsg .., .search _ _ _ => true
  | _, _ => false

/-- The range of the request the engine makes at this point, if it is at a draw (R245). -/
def drawRange (rounds : Nat) : Work → Option (Int × Int)
  | .oracle o => if o.round ≤ rounds then some (0, o.n - 1) else none
  | .keygen g =>
    match g.stage with
    | .candidate _ => some (g.lower, g.upper)
    | .test _ o => if o.round ≤ rounds then some (0, o.n - 1) else none
    | .exponent _ phi l => some (l + 1, phi - 1)
    | .side _ | .judge | .inverse _ _ _ _ => none
  | .start | .search _ _ _ => none

/-- The working registers of the running command are in order (R34, R52, R134, R151); a search's modulus fits the
instance, since it came from a register. -/
def WorkOk (s : State) : Work → Prop
  | .start => True
  | .oracle o => OracleOk o
  | .keygen g => KeyOk g
  | .search n _ r => 0 < n ∧ fits s.params n = true ∧ 1 ≤ r ∧ r ≤ s.tablen.toNat

/-- The range a port's request carries. -/
def Port.range : Port → Option (Int × Int)
  | .free => none
  | .asked lo hi => some (lo, hi)
  | .answered lo hi _ => some (lo, hi)

/-- The invariant every step keeps. -/
structure StateInv (s : State) : Prop where
  /-- R20: every register fits the instance. -/
  regsFit : ∀ r : Reg, fits s.params (s.reg r) = true
  /-- The table is in canonical form. -/
  tableCanonical : Table.wf s.table = true
  /-- R51: every listed entry has an index below `2^KMAX` and fits the instance. -/
  entriesFit : ∀ k v, Table.read? s.table k = some v → k < tableSize s.params ∧ fits s.params v = true
  /-- R29: `TABLEN` is at most `2^KMAX`. -/
  tablenBound : s.tablen.toNat ≤ tableSize s.params
  /-- R52: every entry below `TABLEN` was written since reset. -/
  tableValid : ∀ k, k < s.tablen.toNat → (Table.read? s.table k).isSome = true
  /-- R25: DONE is 1 only while IDLE. -/
  doneIdle : s.done = true → s.phase = .idle
  /-- R25, R232: OUTCOME is 0 while BUSY and while FAULTED. -/
  outcomeIdle : s.phase ≠ .idle → s.outcome = .ok
  /-- R227, R34: while BUSY, LASTCMD is a legal word, and the working registers are its command's and in order. -/
  busyLegal : ∀ w, s.phase = .busy w → WorkOk s w ∧ ∃ i, decodeWord s.lastcmd = .ok i ∧ workOf i w = true
  /-- R245, R247: a request is outstanding only while BUSY at a draw, with that draw's range. -/
  portDraws : ∀ range, s.port.range = some range →
    ∃ w, s.phase = .busy w ∧ drawRange s.rounds.toNat w = some range

end Machine
end Sys2Proof
end

