-- ==== Sys2Proof/Certificates/Slice0/Obligations.lean ====
section
/-! DEFINITION. The statements for the provers. Each docstring names the rules it formalises. -/

open Sys2Proof Sys2Proof.Machine

/-! ## Encoding -/

/-- R82, R83, R86, R90: decoding the word of a well-formed command gives the command back, and a word that decodes is the
word of the well-formed command it decodes to. -/
def Obligations.DecodeAndEncodeAgree : Prop :=
  (∀ i : Instr, i.wellFormed = true → decodeWord (encode i) = .ok i) ∧
  ∀ (w : Word) (i : Instr), decodeWord w = .ok i → i.wellFormed = true ∧ encode i = w

/-- R82, R90: a word is legal exactly when it matches a row's mask and opcode and, for format D3S2, its three destination
fields (bits 11:8, 27:24, 31:28) differ. -/
def Obligations.LegalWordsMatchTheMasks : Prop :=
  ∀ w : Word, (∃ i, decodeWord w = .ok i) ↔
    ∃ mask op d3s2, (mask, op, d3s2) ∈ maskRows ∧ w &&& mask = op ∧
      (d3s2 = true → w.extractLsb' 8 4 ≠ w.extractLsb' 24 4 ∧ w.extractLsb' 8 4 ≠ w.extractLsb' 28 4 ∧
        w.extractLsb' 24 4 ≠ w.extractLsb' 28 4)

/-- R82, R83, R94 and 95_test_vectors.md E1 to E15: one word of every command, written out by the spec, decodes to the command
it names; R86, R90 and E18, E19, E26: a word with a must-be-zero bit set, one with two equal destinations and one with a
reserved opcode are refused. -/
def Obligations.SpecWordsDecode : Prop :=
  decodeWord 0x00000000 = .ok .nop ∧
  decodeWord 0x00210310 = .ok (.modmul 3 0 1 2) ∧
  decodeWord 0x00210411 = .ok (.modpow 4 0 1 2) ∧
  decodeWord 0x00010212 = .ok (.gcd 2 0 1) ∧
  decodeWord 0x65010413 = .ok (.xgcd 4 5 6 0 1) ∧
  decodeWord 0x00010214 = .ok (.modinv 2 0 1) ∧
  decodeWord 0x03210420 = .ok (.witness 4 0 1 2 3) ∧
  decodeWord 0x00000121 = .ok (.isprime 1 0) ∧
  decodeWord 0xA9010830 = .ok (.genkey 8 9 10 0 1) ∧
  decodeWord 0x00210340 = .ok (.encrypt 3 0 1 2) ∧
  decodeWord 0x00210341 = .ok (.decrypt 3 0 1 2) ∧
  decodeWord 0x00310050 = .ok (.buildtab 0 1 3) ∧
  decodeWord 0x00321451 = .ok (.findmsg 4 1 2 3) ∧
  decodeWord 0x03210452 = .ok (.breakmsg 4 0 1 2 3) ∧
  decodeWord 0x00006553 = .ok (.tabrd 5 6) ∧
  decodeWord 0x44010413 = .error .equalDestinations ∧
  decodeWord 0x00000100 = .error .mustBeZero ∧
  decodeWord 0x000000FF = .error .opcode

/-! ## The step and the command register -/

/-- R31, R35: while BUSY, the engine's move is `exec` of the command LASTCMD holds, on the state with the event taken off.
The second clause is about the model's own `withFetchWord` (log 4, DESIGN CHOICE) and no rule of the spec: right after a word is
placed by it, the next step is `exec` of its command. -/
def Obligations.StepRunsDecodedCommand : Prop :=
  (∀ (s : State) (w : Work) (i : Instr) (rest : List Event), s.phase = .busy w → s.pending = .engine :: rest →
    decodeWord s.lastcmd = .ok i → step s = exec i { s with pending := rest }) ∧
  ∀ (s : State) (w : Nat) (i : Instr), decodeTableWord 32 w = some i →
    step (s.withFetchWord 32 w) = exec i (s.accept (BitVec.ofNat 32 w))

/-- R24, R35, R90, R227: a CMD write while IDLE sets LASTCMD and clears DONE and OUTCOME; a legal word makes the engine
BUSY, a reserved one raises F_OPCODE at once. Nothing else of the CORE changes. -/
def Obligations.IdleCommandWrite : Prop :=
  ∀ (s : State) (w : Word) (rest : List Event), s.phase = .idle → s.pending = .host (.writeReg 0 w) :: rest →
    ∃ t, step s = .next t ∧ t.lastcmd = w ∧ t.done = false ∧ t.outcome = .ok ∧ t.port = .free ∧ t.x = s.x ∧
      t.table = s.table ∧ t.tablen = s.tablen ∧ t.ie = s.ie ∧ t.rounds = s.rounds ∧ t.kglimit = s.kglimit ∧
      t.params = s.params ∧ t.pending = rest ∧
      ((∃ i, decodeWord w = .ok i) → t.phase = .busy .start) ∧
      ((∃ e, decodeWord w = .error e) → t.phase = .faulted .opcode)

/-- R24, R61, R272: a CMD write while BUSY or FAULTED changes no state of the CORE and signals no error (the response `ack`
is the model's own, log 12). -/
def Obligations.CommandDroppedUnlessIdle : Prop :=
  ∀ (s : State) (w : Word) (rest : List Event), s.phase ≠ .idle → s.pending = .host (.writeReg 0 w) :: rest →
    step s = .next { s with pending := rest, response := .ack }

/-! ## Modular arithmetic -/

/-- R210: NOP only completes, and its only legal word is 0. -/
def Obligations.NopOnlyCompletes : Prop :=
  (∀ s : State, ∃ t, exec .nop s = .next t ∧ Completes .ok [] s t) ∧
  ∀ w : Word, decodeWord w = .ok .nop ↔ w = 0

/-- R100, R101: with a positive modulus and non-negative factors MODMUL writes `(a * b) mod m`. -/
def Obligations.ModmulWritesProduct : Prop :=
  ∀ (rd rs1 rs2 rs3 : Reg) (s : State), 0 < s.reg rs3 → 0 ≤ s.reg rs1 → 0 ≤ s.reg rs2 →
    fits s.params (s.reg rs3) = true →
    ∃ t, exec (.modmul rd rs1 rs2 rs3) s = .next t ∧ Completes .ok [rd] s t ∧
      t.reg rd = s.reg rs1 * s.reg rs2 % s.reg rs3

/-- R103, R104: MODPOW writes `b^e mod m`, `b^0` being 1. -/
def Obligations.ModpowWritesPower : Prop :=
  ∀ (rd rs1 rs2 rs3 : Reg) (s : State), 0 < s.reg rs3 → 0 ≤ s.reg rs1 → 0 ≤ s.reg rs2 →
    fits s.params (s.reg rs3) = true →
    ∃ t, exec (.modpow rd rs1 rs2 rs3) s = .next t ∧ Completes .ok [rd] s t ∧
      t.reg rd = s.reg rs1 ^ (s.reg rs2).toNat % s.reg rs3

/-- R106 to R108: GCD writes the greatest common divisor, for every pair of integers. -/
def Obligations.GcdWritesGcd : Prop :=
  ∀ (rd rs1 rs2 : Reg) (s : State), fits s.params (s.reg rs1) = true → fits s.params (s.reg rs2) = true →
    ∃ t, exec (.gcd rd rs1 rs2) s = .next t ∧ Completes .ok [rd] s t ∧
      t.reg rd = (Int.gcd (s.reg rs1) (s.reg rs2) : Int)

/-- R109, R111, R231: XGCD writes Bézout coefficients and the greatest common divisor, for every pair of integers that
fit; it never raises F_CAPACITY then. -/
def Obligations.XgcdWritesBezoutPair : Prop :=
  ∀ (rd rd2 rd3 rs1 rs2 : Reg) (s : State), distinctDestinations rd rd2 rd3 = true →
    fits s.params (s.reg rs1) = true → fits s.params (s.reg rs2) = true →
    ∃ t, exec (.xgcd rd rd2 rd3 rs1 rs2) s = .next t ∧ Completes .ok [rd, rd2, rd3] s t ∧
      (t.reg rd, t.reg rd2, t.reg rd3) = xgcd (s.reg rs1) (s.reg rs2) ∧
      t.reg rd3 = (Int.gcd (s.reg rs1) (s.reg rs2) : Int) ∧
      t.reg rd * s.reg rs1 + t.reg rd2 * s.reg rs2 = t.reg rd3

/-- R112(a) to (d), (f): the pair's corner cases, its behaviour under sign changes (a zero operand has no sign to change),
and the size of the coefficients. -/
def Obligations.XgcdPairProperties : Prop :=
  xgcd 0 0 = (1, 0, 0) ∧
  (∀ u : Int, u ≠ 0 → xgcd u 0 = (sgn u, 0, |u|)) ∧
  (∀ v : Int, v ≠ 0 → xgcd 0 v = (0, sgn v, |v|)) ∧
  (∀ u v : Int, u ≠ 0 → xgcd (-u) v = (-(xgcd u v).1, (xgcd u v).2.1, (xgcd u v).2.2)) ∧
  (∀ u v : Int, v ≠ 0 → xgcd u (-v) = ((xgcd u v).1, -(xgcd u v).2.1, (xgcd u v).2.2)) ∧
  ∀ u v : Int, (u ≠ 0 ∨ v ≠ 0) → |(xgcd u v).1| ≤ max 1 (|v| / Int.gcd u v) ∧
    |(xgcd u v).2.1| ≤ max 1 (|u| / Int.gcd u v)

/-- R115: MODINV writes the inverse in `[0, m)`, or completes `O_NO_INVERSE` and writes nothing. -/
def Obligations.ModinvWritesInverseOrReports : Prop :=
  ∀ (rd rs1 rs2 : Reg) (s : State), 0 < s.reg rs2 → fits s.params (s.reg rs2) = true →
    (Int.gcd (s.reg rs1) (s.reg rs2) = 1 →
      ∃ t, exec (.modinv rd rs1 rs2) s = .next t ∧ Completes .ok [rd] s t ∧ 0 ≤ t.reg rd ∧ t.reg rd < s.reg rs2 ∧
        s.reg rs1 * t.reg rd % s.reg rs2 = 1 % s.reg rs2) ∧
    (Int.gcd (s.reg rs1) (s.reg rs2) ≠ 1 →
      ∃ t, exec (.modinv rd rs1 rs2) s = .next t ∧ Completes .noInverse [] s t)

/-- R114 (a) to (e): what `modinv` returns. -/
def Obligations.ModinvIsTheUniqueInverse : Prop :=
  ∀ m : Int, 0 < m →
    (∀ a : Int, Int.gcd a m = 1 → ∃ x, modinv a m = some x ∧ 0 ≤ x ∧ x < m ∧ a * x % m = 1 % m ∧
      ∀ y, 0 ≤ y → y < m → a * y % m = 1 % m → y = x) ∧
    (∀ a : Int, Int.gcd a m ≠ 1 → modinv a m = none) ∧
    (∀ a : Int, m = 1 → modinv a m = some 0) ∧
    (modinv 0 m = none ↔ m ≠ 1) ∧
    modinv (-3) 7 = some 2 ∧ modinv 10 7 = some 5 ∧
    modinv 1 m = some (1 % m) ∧ (2 ≤ m → modinv (m - 1) m = some (m - 1))

/-! ## Primality -/

/-- R131, R132: WITNESS writes 1 exactly when `x` is 1 at `a^d`, or `n - 1` at one of `a^d, a^(2d), ..., a^(2^(s-1) d)`
(at `a^d` only when `s` is 0), modulo `n`; else 0. -/
def Obligations.WitnessWritesVerdict : Prop :=
  ∀ (rd rs1 rs2 rs3 rs4 : Reg) (s : State), 0 < s.reg rs4 → 0 ≤ s.reg rs1 → 0 ≤ s.reg rs2 → 0 ≤ s.reg rs3 →
    ∃ t, exec (.witness rd rs1 rs2 rs3 rs4) s = .next t ∧ Completes .ok [rd] s t ∧
      (t.reg rd = 1 ∨ t.reg rd = 0) ∧
      (t.reg rd = 1 ↔ s.reg rs1 ^ (s.reg rs3).toNat % s.reg rs4 = 1 ∨
        ∃ k : Nat, k < max 1 (s.reg rs2).toNat ∧
          s.reg rs1 ^ ((s.reg rs3).toNat * 2 ^ k) % s.reg rs4 = s.reg rs4 - 1)

/-- R130: the decomposition `n - 1 = d * 2^s`, and the rule's five examples. -/
def Obligations.DecompositionOfCandidate : Prop :=
  (∀ n : Nat, 2 ≤ n → (n - 1) / 2 ^ tz (n - 1) % 2 = 1 ∧ 1 ≤ (n - 1) / 2 ^ tz (n - 1) ∧
    n - 1 = (n - 1) / 2 ^ tz (n - 1) * 2 ^ tz (n - 1) ∧ (tz (n - 1) = 0 ↔ n % 2 = 0)) ∧
  ∀ n k d, (n, k, d) ∈ [(13, 2, 3), (221, 2, 55), (561, 4, 35), (3, 1, 1), (4, 0, 3)] →
    tz (n - 1) = k ∧ (n - 1) / 2 ^ tz (n - 1) = d

/-- R133(b), (c): with the decomposition of `n - 1`, the witnesses 1 and `n - 1` always pass; for an odd prime every
witness in `[1, n - 1]` passes. -/
def Obligations.PrimesPassEveryWitness : Prop :=
  ∀ n : Nat, 3 ≤ n →
    witnessTest 1 (tz (n - 1)) ((n - 1) / 2 ^ tz (n - 1)) n = true ∧
    witnessTest (n - 1) (tz (n - 1)) ((n - 1) / 2 ^ tz (n - 1)) n = true ∧
    (n.Prime → ∀ a, 1 ≤ a → a ≤ n - 1 → witnessTest a (tz (n - 1)) ((n - 1) / 2 ^ tz (n - 1)) n = true)

/-- R134, R138(a), (b): for `n <= 2` ISPRIME completes without a draw: 1 for 2, else 0, negative numbers included. -/
def Obligations.IsprimeSmallNumbers : Prop :=
  ∀ (rd rs1 : Reg) (s : State), s.phase = .busy .start → s.rounds ≠ 0 → s.reg rs1 ≤ 2 →
    ∃ t, exec (.isprime rd rs1) s = .next t ∧ Completes .ok [rd] s t ∧
      t.reg rd = if s.reg rs1 = 2 then 1 else 0

/-- R134 to R137: ISPRIME completes with 1 once all ROUNDS rounds have passed, and with 0 at the first round whose
non-zero draw is a failing witness. (The moves are log 5, the answer held in the port log 18.) -/
def Obligations.IsprimeCompletes : Prop :=
  ∀ (rd rs1 : Reg) (s : State) (o : Oracle), s.phase = .busy (.oracle o) →
    (s.rounds.toNat < o.round →
      ∃ t, exec (.isprime rd rs1) s = .next t ∧ Completes .ok [rd] s t ∧ t.reg rd = 1) ∧
    (∀ lo hi a : Int, o.round ≤ s.rounds.toNat → s.port = .answered lo hi a → lo ≤ a → a ≤ hi → a ≠ 0 →
      witnessTest a.toNat o.s o.d o.n = false →
      ∃ t, exec (.isprime rd rs1) s = .next t ∧ Completes .ok [rd] s t ∧ t.reg rd = 0)

/-- R134, R137, R245: how ISPRIME goes on: it enters its loop with the decomposition of `n - 1`; it requests a draw from
`[0, n - 1]`, discards a zero answer, and after a passing round goes to the next; nothing else changes. (How the loop is cut
into moves is the model's own, logs 5 and 18.) -/
def Obligations.IsprimeGoesOn : Prop :=
  (∀ (rd rs1 : Reg) (s : State), s.phase = .busy .start → s.rounds ≠ 0 → 3 ≤ s.reg rs1 →
    ∃ o : Oracle, exec (.isprime rd rs1) s = .next { s with phase := .busy (.oracle o) } ∧
      (o.n : Int) = s.reg rs1 ∧ o.s = tz (o.n - 1) ∧ o.d = (o.n - 1) / 2 ^ o.s ∧ o.round = 1) ∧
  ∀ (rd rs1 : Reg) (s : State) (o : Oracle), s.phase = .busy (.oracle o) → o.round ≤ s.rounds.toNat →
    (s.port = .free → exec (.isprime rd rs1) s = .next { s with port := .asked 0 (o.n - 1) }) ∧
    (∀ lo hi : Int, s.port = .asked lo hi → exec (.isprime rd rs1) s = .next s) ∧
    ∀ lo hi a : Int, s.port = .answered lo hi a → lo ≤ a → a ≤ hi →
      (a = 0 → exec (.isprime rd rs1) s = .next { s with port := .free }) ∧
      (a ≠ 0 → witnessTest a.toNat o.s o.d o.n = true → exec (.isprime rd rs1) s =
        .next { s with port := .free, phase := .busy (.oracle { o with round := o.round + 1 }) })

/-- R138(c), (d): testing an odd prime, ISPRIME can complete with 1 only, whatever the draws in range, and keeps the
number it tests. -/
def Obligations.IsprimeAcceptsEveryPrime : Prop :=
  ∀ (rd rs1 : Reg) (s t : State) (o : Oracle), s.phase = .busy (.oracle o) → OracleOk o → o.n.Prime →
    (∀ range, s.port.range = some range → range = (0, (o.n : Int) - 1)) →
    exec (.isprime rd rs1) s = .next t →
    (t.phase = .idle → t.reg rd = 1) ∧ ∀ o', t.phase = .busy (.oracle o') → o'.n = o.n ∧ OracleOk o'

/-- R230, R238: ISPRIME and GENKEY raise F_CONFIG first when ROUNDS is 0, whatever their operands are. -/
def Obligations.ZeroRoundsFault : Prop :=
  ∀ (i : Instr) (s : State), i.draws = true → s.phase = .busy .start → s.rounds = 0 →
    ∃ t, exec i s = .next t ∧ Faults .config s t

/-- R245: an answer is taken by the outstanding request, and nothing else changes (that the port holds it until an engine move
uses it is log 18, that no answer is told from another is log 24). R246, R247: at each of its draws ISPRIME and GENKEY raise
F_RNG on an answer outside the requested range; an answer for which no request is outstanding changes nothing (log 15). -/
def Obligations.DrawAnswersAreChecked : Prop :=
  (∀ (i : Instr) (s : State) (w : Work) (range : Int × Int) (lo hi v : Int), i.draws = true → workOf i w = true →
    s.phase = .busy w → drawRange s.rounds.toNat w = some range → s.port = .answered lo hi v → (v < lo ∨ hi < v) →
    ∃ t, exec i s = .next t ∧ Faults .rng s t) ∧
  ∀ (s : State) (v : Int) (rest : List Event), s.pending = .answer v :: rest →
    (∀ lo hi, s.port = .asked lo hi → step s = .next { s with pending := rest, port := .answered lo hi v }) ∧
    ((∀ lo hi, s.port ≠ .asked lo hi) → step s = .next { s with pending := rest })

/-! ## Key generation -/

/-- R159, R162: the last move of GENKEY writes a valid key: `n = p * q` for the two different accepted candidates,
`L < e < phi`, `gcd(e, phi) = 1`, `0 < d < phi`, `e * d mod phi = 1`. (That this is a move of its own is log 5.) -/
def Obligations.GenkeyDeliversAKey : Prop :=
  ∀ (rd rd2 rd3 rs1 rs2 : Reg) (s : State) (g : KeyWork) (n phi e : Int) (l : Nat),
    distinctDestinations rd rd2 rd3 = true → s.phase = .busy (.keygen g) → g.stage = .inverse n phi l e → KeyOk g →
    fits s.params n = true →
    ∃ t, exec (.genkey rd rd2 rd3 rs1 rs2) s = .next t ∧ Completes .ok [rd, rd2, rd3] s t ∧
      t.reg rd = e ∧ t.reg rd3 = n ∧ (l : Int) < e ∧ e < phi ∧ Int.gcd e phi = 1 ∧
      0 < t.reg rd2 ∧ t.reg rd2 < phi ∧ e * t.reg rd2 % phi = 1 ∧
      ∃ p q, g.p = some p ∧ g.q = some q ∧ p ≠ q ∧ n = p * q ∧ phi = (p - 1) * (q - 1) ∧ l = clog2 n.toNat

/-- R151, R152, R134: GENKEY's checks pass to the first side; a side's candidate is drawn over `[lower, upper]` and goes to
the oracle; the side is valid once the oracle accepts, and either way the pass goes on with `q` after `p`, with the pass's
end after `q`. Nothing but the port and the working registers changes, and nothing at all while a request waits for its
answer. (The cut into moves is the model's own: log 5, and log 18 for the two moves of a draw; both DESIGN CHOICE.) -/
def Obligations.GenkeySamplesCandidates : Prop :=
  (∀ (rd rd2 rd3 rs1 rs2 : Reg) (s : State), s.phase = .busy .start → s.rounds ≠ 0 → 0 ≤ s.reg rs1 →
    s.reg rs1 ≤ s.reg rs2 → exec (.genkey rd rd2 rd3 rs1 rs2) s =
      .next { s with phase := .busy (.keygen ⟨s.reg rs1, s.reg rs2, 0, none, none, .side .p⟩) }) ∧
  ∀ (rd rd2 rd3 rs1 rs2 : Reg) (s : State) (g : KeyWork) (σ : Side) (after : KeyStage) (valid : Int → KeyWork),
    s.phase = .busy (.keygen g) →
    (σ = .p ∧ after = .side .q ∧ (∀ v, valid v = { g with p := some v, stage := after }) ∨
      σ = .q ∧ after = .judge ∧ (∀ v, valid v = { g with q := some v, stage := after })) →
    let goesOn (port : Port) (g' : KeyWork) : Prop :=
      exec (.genkey rd rd2 rd3 rs1 rs2) s = .next { s with port := port, phase := .busy (.keygen g') }
    (g.stage = .side σ → g.accepted σ ≠ none → goesOn s.port { g with stage := after }) ∧
    (g.stage = .candidate σ →
      (s.port = .free → goesOn (.asked g.lower g.upper) g) ∧
      (∀ lo hi : Int, s.port = .asked lo hi → exec (.genkey rd rd2 rd3 rs1 rs2) s = .next s) ∧
      ∀ lo hi v : Int, s.port = .answered lo hi v → lo ≤ v → v ≤ hi →
        (v < 2 → goesOn .free { g with stage := after }) ∧
        (v = 2 → goesOn .free (valid v)) ∧
        (3 ≤ v → goesOn .free { g with stage := .test σ ⟨v.toNat, tz (v.toNat - 1),
          (v.toNat - 1) / 2 ^ tz (v.toNat - 1), 1⟩ })) ∧
    ∀ o : Oracle, g.stage = .test σ o →
      (s.rounds.toNat < o.round → goesOn s.port (valid o.n)) ∧
      (o.round ≤ s.rounds.toNat → s.port = .free → goesOn (.asked 0 (o.n - 1)) g) ∧
      (∀ lo hi : Int, o.round ≤ s.rounds.toNat → s.port = .asked lo hi →
        exec (.genkey rd rd2 rd3 rs1 rs2) s = .next s) ∧
      ∀ lo hi a : Int, o.round ≤ s.rounds.toNat → s.port = .answered lo hi a → lo ≤ a → a ≤ hi →
        (a = 0 → goesOn .free g) ∧
        (a ≠ 0 → witnessTest a.toNat o.s o.d o.n = true →
          goesOn .free { g with stage := .test σ { o with round := o.round + 1 } }) ∧
        (a ≠ 0 → witnessTest a.toNat o.s o.d o.n = false → goesOn .free { g with stage := after })

/-- R151, R155, R156: at the end of a pass GENKEY starts another unless both sides are valid; with two different candidates
and a non-empty interval it draws `e` over `[L + 1, phi - 1]`, `L = clog2(n)`, and draws again until `gcd(e, phi) = 1`.
Nothing but the port and the working registers changes, and nothing at all while the request waits for its answer. (The cut
into moves is the model's own: log 5, and log 18 for the two moves of a draw; both DESIGN CHOICE.) -/
def Obligations.GenkeySamplesExponent : Prop :=
  ∀ (rd rd2 rd3 rs1 rs2 : Reg) (s : State) (g : KeyWork), s.phase = .busy (.keygen g) →
    let goesOn (port : Port) (g' : KeyWork) : Prop :=
      exec (.genkey rd rd2 rd3 rs1 rs2) s = .next { s with port := port, phase := .busy (.keygen g') }
    (g.stage = .judge → (g.p = none ∨ g.q = none) → goesOn s.port { g with stage := .side .p }) ∧
    (∀ p q : Int, g.stage = .judge → g.p = some p → g.q = some q → p ≠ q →
      (clog2 (p * q).toNat : Int) + 1 ≤ (p - 1) * (q - 1) - 1 →
      goesOn s.port { g with stage := .exponent (p * q) ((p - 1) * (q - 1)) (clog2 (p * q).toNat) }) ∧
    ∀ (n phi : Int) (l : Nat), g.stage = .exponent n phi l →
      (s.port = .free → goesOn (.asked (l + 1) (phi - 1)) g) ∧
      (∀ lo hi : Int, s.port = .asked lo hi → exec (.genkey rd rd2 rd3 rs1 rs2) s = .next s) ∧
      ∀ lo hi e : Int, s.port = .answered lo hi e → lo ≤ e → e ≤ hi →
        (Int.gcd e phi = 1 → goesOn .free { g with stage := .inverse n phi l e }) ∧
        (Int.gcd e phi ≠ 1 → goesOn .free g)

/-- R153, R161: before sampling a candidate GENKEY gives up with `O_NO_PRIME` when KGLIMIT is not 0 and that many were
sampled, else it counts the candidate; with KGLIMIT 0 it never gives up. (The moves are log 5.) -/
def Obligations.GenkeyAttemptLimit : Prop :=
  (∀ (rd rd2 rd3 rs1 rs2 : Reg) (s : State) (g : KeyWork) (σ : Side), s.phase = .busy (.keygen g) →
    g.stage = .side σ → g.accepted σ = none →
    (s.kglimit ≠ 0 → g.attempts = s.kglimit.toNat →
      ∃ t, exec (.genkey rd rd2 rd3 rs1 rs2) s = .next t ∧ Completes .noPrime [] s t) ∧
    ((s.kglimit = 0 ∨ g.attempts ≠ s.kglimit.toNat) → exec (.genkey rd rd2 rd3 rs1 rs2) s =
      .next { s with phase := .busy (.keygen { g with attempts := g.attempts + 1, stage := .candidate σ }) })) ∧
  ∀ (rd rd2 rd3 rs1 rs2 : Reg) (s t : State) (g : KeyWork), s.phase = .busy (.keygen g) → s.kglimit = 0 →
    exec (.genkey rd rd2 rd3 rs1 rs2) s = .next t → t.phase = .idle → t.outcome ≠ .noPrime

/-- R157: with two different accepted candidates and no integer in the exponent interval GENKEY ends `O_NO_EXPONENT` and
writes no register; among pairs of primes this happens exactly for 2, 3 and 2, 5. -/
def Obligations.GenkeyEmptyInterval : Prop :=
  (∀ (rd rd2 rd3 rs1 rs2 : Reg) (s : State) (g : KeyWork) (p q : Int), s.phase = .busy (.keygen g) →
    g.stage = .judge → g.p = some p → g.q = some q → p ≠ q →
    (p - 1) * (q - 1) - 1 < (clog2 (p * q).toNat : Int) + 1 →
    ∃ t, exec (.genkey rd rd2 rd3 rs1 rs2) s = .next t ∧ Completes .noExponent [] s t) ∧
  (∀ p q : Nat, p.Prime → q.Prime → p < q →
    (((p : Int) - 1) * ((q : Int) - 1) - 1 < (clog2 (p * q) : Int) + 1 ↔ (p = 2 ∧ q = 3) ∨ (p = 2 ∧ q = 5))) ∧
  clog2 6 = 3 ∧ clog2 10 = 4

/-- R154: on equal accepted candidates GENKEY keeps `p` and invalidates `q`. (The move is log 5.) -/
def Obligations.GenkeyEqualCandidates : Prop :=
  ∀ (rd rd2 rd3 rs1 rs2 : Reg) (s : State) (g : KeyWork) (p : Int), s.phase = .busy (.keygen g) → g.stage = .judge →
    g.p = some p → g.q = some p →
    exec (.genkey rd rd2 rd3 rs1 rs2) s = .next { s with phase := .busy (.keygen { g with q := none, stage := .side .p }) }

/-- R231: GENKEY raises F_CAPACITY at its last move when `n` does not fit; on an instance with `W = none` no command
raises it. -/
def Obligations.CapacityFaults : Prop :=
  (∀ (rd rd2 rd3 rs1 rs2 : Reg) (s : State) (g : KeyWork) (n phi e : Int) (l : Nat), s.phase = .busy (.keygen g) →
    g.stage = .inverse n phi l e → KeyOk g → fits s.params n = false →
    ∃ t, exec (.genkey rd rd2 rd3 rs1 rs2) s = .next t ∧ Faults .capacity s t) ∧
  ∀ (i : Instr) (s t : State), s.params.limbs = 0 → exec i s = .next t → t.phase = .faulted .capacity →
    s.phase = .faulted .capacity

/-! ## Cipher -/

/-- R171: ENCRYPT writes `m^e mod n` for a message in `[0, n)`; for any other it completes `O_OUT_OF_RANGE` and writes
nothing. -/
def Obligations.EncryptWritesCiphertextOrRejects : Prop :=
  ∀ (rd rs1 rs2 rs3 : Reg) (s : State), 0 < s.reg rs3 → 0 ≤ s.reg rs2 → fits s.params (s.reg rs3) = true →
    (0 ≤ s.reg rs1 → s.reg rs1 < s.reg rs3 →
      ∃ t, exec (.encrypt rd rs1 rs2 rs3) s = .next t ∧ Completes .ok [rd] s t ∧
        t.reg rd = s.reg rs1 ^ (s.reg rs2).toNat % s.reg rs3) ∧
    ((s.reg rs1 < 0 ∨ s.reg rs3 ≤ s.reg rs1) →
      ∃ t, exec (.encrypt rd rs1 rs2 rs3) s = .next t ∧ Completes .outOfRange [] s t)

/-- R173: DECRYPT writes `c^d mod n`, with no range check of `c`. -/
def Obligations.DecryptWritesPlaintext : Prop :=
  ∀ (rd rs1 rs2 rs3 : Reg) (s : State), 0 < s.reg rs3 → 0 ≤ s.reg rs2 → 0 ≤ s.reg rs1 →
    fits s.params (s.reg rs3) = true →
    ∃ t, exec (.decrypt rd rs1 rs2 rs3) s = .next t ∧ Completes .ok [rd] s t ∧
      t.reg rd = s.reg rs1 ^ (s.reg rs2).toNat % s.reg rs3

/-- R162, R174: for a key of two different primes, DECRYPT of ENCRYPT of a message in `[0, n)` gives the message back. The
ciphertext's register is neither that of `d` nor that of `n`: ENCRYPT would overwrite the key that DECRYPT reads. -/
def Obligations.DecryptUndoesEncrypt : Prop :=
  ∀ (rc rm re rk rn ro : Reg) (s : State) (p q : Nat), p.Prime → q.Prime → p ≠ q → s.reg rn = (p : Int) * q →
    0 ≤ s.reg re → 0 ≤ s.reg rk → s.reg re * s.reg rk % (((p : Int) - 1) * ((q : Int) - 1)) = 1 →
    0 ≤ s.reg rm → s.reg rm < s.reg rn → fits s.params (s.reg rn) = true → rc ≠ rk → rc ≠ rn →
    ∃ t u, exec (.encrypt rc rm re rn) s = .next t ∧ exec (.decrypt ro rc rk rn) t = .next u ∧
      u.outcome = .ok ∧ u.reg ro = s.reg rm

/-! ## Breaker -/

/-- R53, R181 to R183, R186: after BUILDTAB, and after BREAK's two moves, TABLEN is `r`, entry 0 is 0, entry `k` is
`k^e mod n` for `1 <= k < r`, and the entries from `r` on are as before; BUILDTAB writes no register. (That BREAK takes two
moves is log 5.) -/
def Obligations.TableAfterBuilding : Prop :=
  (∀ (rs1 rs2 rs3 : Reg) (s : State), 0 < s.reg rs2 → 0 ≤ s.reg rs1 → 1 ≤ s.reg rs3 →
    s.reg rs3 ≤ tableSize s.params → fits s.params (s.reg rs2) = true →
    ∃ t, exec (.buildtab rs1 rs2 rs3) s = .next t ∧ t.phase = .idle ∧ t.done = true ∧ t.outcome = .ok ∧
      t.port = .free ∧ SameControls s t ∧ SameRegsBut [] s t ∧ (t.tablen.toNat : Int) = s.reg rs3 ∧
      Table.read? t.table 0 = some 0 ∧
      (∀ k : Nat, 1 ≤ k → (k : Int) < s.reg rs3 →
        Table.read? t.table k = some (k ^ (s.reg rs1).toNat % (s.reg rs2).toNat)) ∧
      ∀ k : Nat, s.reg rs3 ≤ k → Table.read? t.table k = Table.read? s.table k) ∧
  ∀ (rd rs1 rs2 rs3 rs4 : Reg) (s : State), s.phase = .busy .start → 0 < s.reg rs2 → 0 ≤ s.reg rs1 → 0 ≤ s.reg rs3 →
    0 ≤ s.reg rs4 → s.reg rs4 ≤ s.params.kmax.val → fits s.params (s.reg rs2) = true →
    ∃ t u, exec (.breakmsg rd rs1 rs2 rs3 rs4) s = .next t ∧ exec (.breakmsg rd rs1 rs2 rs3 rs4) t = .next u ∧
      u.phase = .idle ∧ u.tablen.toNat = 2 ^ (s.reg rs4).toNat ∧ Table.read? u.table 0 = some 0 ∧
      (∀ k : Nat, 1 ≤ k → k < 2 ^ (s.reg rs4).toNat →
        Table.read? u.table k = some (k ^ (s.reg rs1).toNat % (s.reg rs2).toNat)) ∧
      ∀ k : Nat, 2 ^ (s.reg rs4).toNat ≤ k → Table.read? u.table k = Table.read? s.table k

/-- R184: TABRD writes the entry its index names, for a valid index. -/
def Obligations.TabrdReadsEntry : Prop :=
  ∀ (rd rs1 : Reg) (s : State) (v : Nat), 0 ≤ s.reg rs1 → s.reg rs1 < s.tablen.toNat →
    Table.read? s.table (s.reg rs1).toNat = some v → fits s.params v = true →
    ∃ t, exec (.tabrd rd rs1) s = .next t ∧ Completes .ok [rd] s t ∧ t.reg rd = v

/-- R187: `find_message` returns `(i * j) mod n` for the lexicographically smallest matching pair, and `absent` when no
pair matches. -/
def Obligations.SearchReturnsFirstMatch : Prop :=
  ∀ (T : Nat → Nat) (n c r : Nat), 0 < n →
    (∀ i j, FirstMatch T n c r i j → findMessage T n c r = some (i * j % n)) ∧
    ((¬∃ i j, 1 ≤ i ∧ i < r ∧ 1 ≤ j ∧ j < r ∧ Matches T n c i j) → findMessage T n c r = none)

/-- R187, R188: FINDMSG writes the first match's `(i * j) mod n`, or completes `O_NOT_FOUND` and writes nothing. -/
def Obligations.FindmsgWritesFirstMatch : Prop :=
  ∀ (rd rs1 rs2 rs3 : Reg) (s : State), 0 < s.reg rs1 → 0 ≤ s.reg rs2 → 1 ≤ s.reg rs3 →
    s.reg rs3 ≤ tableSize s.params → s.reg rs3 ≤ s.tablen.toNat → fits s.params (s.reg rs1) = true →
    (∀ i j, FirstMatch s.memRead (s.reg rs1).toNat (s.reg rs2).toNat (s.reg rs3).toNat i j →
      ∃ t, exec (.findmsg rd rs1 rs2 rs3) s = .next t ∧ Completes .ok [rd] s t ∧
        t.reg rd = ((i * j : Nat) : Int) % s.reg rs1) ∧
    ((¬∃ i j, 1 ≤ i ∧ i < (s.reg rs3).toNat ∧ 1 ≤ j ∧ j < (s.reg rs3).toNat ∧
        Matches s.memRead (s.reg rs1).toNat (s.reg rs2).toNat i j) →
      ∃ t, exec (.findmsg rd rs1 rs2 rs3) s = .next t ∧ Completes .notFound [] s t)

/-- R54, R186, R187: BREAK's two moves give the first match over the table `0, 1^e mod n, 2^e mod n, ...` of its own
operands, whatever the table held before, or `O_NOT_FOUND`; no other register and no control register changes. (That it
takes two moves is log 5.) -/
def Obligations.BreakWritesFirstMatch : Prop :=
  ∀ (rd rs1 rs2 rs3 rs4 : Reg) (s : State) (T : Nat → Nat), s.phase = .busy .start → 0 < s.reg rs2 → 0 ≤ s.reg rs1 →
    0 ≤ s.reg rs3 → 0 ≤ s.reg rs4 → s.reg rs4 ≤ s.params.kmax.val → fits s.params (s.reg rs2) = true →
    (∀ k, T k = if k = 0 then 0 else k ^ (s.reg rs1).toNat % (s.reg rs2).toNat) →
    ∃ t u, exec (.breakmsg rd rs1 rs2 rs3 rs4) s = .next t ∧ SameRegsBut [] s t ∧ SameControls s t ∧
      exec (.breakmsg rd rs1 rs2 rs3 rs4) t = .next u ∧ u.phase = .idle ∧ u.done = true ∧ u.port = .free ∧
      SameControls s u ∧
      (∀ i j, FirstMatch T (s.reg rs2).toNat (s.reg rs3).toNat (2 ^ (s.reg rs4).toNat) i j →
        u.outcome = .ok ∧ u.reg rd = ((i * j : Nat) : Int) % s.reg rs2 ∧ SameRegsBut [rd] s u) ∧
      ((¬∃ i j, 1 ≤ i ∧ i < 2 ^ (s.reg rs4).toNat ∧ 1 ≤ j ∧ j < 2 ^ (s.reg rs4).toNat ∧
          Matches T (s.reg rs2).toNat (s.reg rs3).toNat i j) →
        u.outcome = .notFound ∧ SameRegsBut [] s u)

/-- R189(a), (b): for a valid public key and a ciphertext of `m`, BREAK never writes anything but `m`, and it finds every
`m` with `1 <= m < 2^bit_width`. (That BREAK takes two moves is log 5.) -/
def Obligations.BreakRecoversPlaintext : Prop :=
  ∀ (rd rs1 rs2 rs3 rs4 : Reg) (s : State) (p q m : Nat), p.Prime → q.Prime → p ≠ q → s.phase = .busy .start →
    s.reg rs2 = (p : Int) * q → 0 ≤ s.reg rs1 → Int.gcd (s.reg rs1) (((p : Int) - 1) * ((q : Int) - 1)) = 1 →
    m < p * q → s.reg rs3 = (m : Int) ^ (s.reg rs1).toNat % s.reg rs2 → 0 ≤ s.reg rs4 →
    s.reg rs4 ≤ s.params.kmax.val → fits s.params (s.reg rs2) = true →
    ∃ t u, exec (.breakmsg rd rs1 rs2 rs3 rs4) s = .next t ∧ exec (.breakmsg rd rs1 rs2 rs3 rs4) t = .next u ∧
      u.phase = .idle ∧ (u.outcome = .ok → u.reg rd = m) ∧
      (1 ≤ m → m < 2 ^ (s.reg rs4).toNat → u.outcome = .ok)

/-! ## Faults -/

/-- R228, R238: a command with a modulus operand that is zero or negative raises F_MODULUS, whatever its other operands
are. -/
def Obligations.ModulusIsChecked : Prop :=
  ∀ (i : Instr) (m : Reg) (s : State), i.modulus = some m → s.phase = .busy .start → s.reg m ≤ 0 →
    ∃ t, exec i s = .next t ∧ Faults .modulus s t

/-- R229, R163, R238: with ROUNDS and the modulus in order, a negative operand that must not be raises F_OPERAND, and so
does GENKEY's `lower > upper`. -/
def Obligations.OperandsAreChecked : Prop :=
  (∀ (i : Instr) (r : Reg) (s : State), s.phase = .busy .start → (i.draws = true → s.rounds ≠ 0) →
    (∀ m, i.modulus = some m → 0 < s.reg m) → r ∈ i.nonNegative → s.reg r < 0 →
    ∃ t, exec i s = .next t ∧ Faults .operand s t) ∧
  ∀ (rd rd2 rd3 rs1 rs2 : Reg) (s : State), s.phase = .busy .start → s.rounds ≠ 0 → s.reg rs2 < s.reg rs1 →
    ∃ t, exec (.genkey rd rd2 rd3 rs1 rs2) s = .next t ∧ Faults .operand s t

/-- R235, R236, R184: a width the table memory cannot hold raises F_WIDTH; an index or width beyond TABLEN raises
F_TABLE. -/
def Obligations.WidthsAndIndicesAreChecked : Prop :=
  (∀ (rs1 rs2 rs3 : Reg) (s : State), 0 < s.reg rs2 → 0 ≤ s.reg rs1 →
    (s.reg rs3 < 1 ∨ (tableSize s.params : Int) < s.reg rs3) →
    ∃ t, exec (.buildtab rs1 rs2 rs3) s = .next t ∧ Faults .width s t) ∧
  (∀ (rd rs1 rs2 rs3 : Reg) (s : State), 0 < s.reg rs1 → 0 ≤ s.reg rs2 →
    ((s.reg rs3 < 1 ∨ (tableSize s.params : Int) < s.reg rs3) →
      ∃ t, exec (.findmsg rd rs1 rs2 rs3) s = .next t ∧ Faults .width s t) ∧
    (1 ≤ s.reg rs3 → s.reg rs3 ≤ tableSize s.params → (s.tablen.toNat : Int) < s.reg rs3 →
      ∃ t, exec (.findmsg rd rs1 rs2 rs3) s = .next t ∧ Faults .table s t)) ∧
  (∀ (rd rs1 rs2 rs3 rs4 : Reg) (s : State), s.phase = .busy .start → 0 < s.reg rs2 → 0 ≤ s.reg rs1 →
    0 ≤ s.reg rs3 → (s.reg rs4 < 0 ∨ (s.params.kmax.val : Int) < s.reg rs4) →
    ∃ t, exec (.breakmsg rd rs1 rs2 rs3 rs4) s = .next t ∧ Faults .width s t) ∧
  ∀ (rd rs1 : Reg) (s : State), (s.reg rs1 < 0 ∨ (s.tablen.toNat : Int) ≤ s.reg rs1) →
    ∃ t, exec (.tabrd rd rs1) s = .next t ∧ Faults .table s t

/-- R233, R234, R239: a command that faults changes no register, table entry or control register: the move that faults changes
none; no earlier move, after which the engine is still BUSY, changes a register or a control register; and none changes the
table but BREAK's move to its search, which under the invariant does not fault any more. (The moves are log 5.) -/
def Obligations.FaultingCommandWritesNothing : Prop :=
  (∀ (i : Instr) (s t : State), exec i s = .next t →
    (∀ c, t.phase = .faulted c → SameRegsBut [] s t ∧ SameTable s t ∧ SameControls s t) ∧
    ∀ w, t.phase = .busy w → SameRegsBut [] s t ∧ SameControls s t ∧
      (SameTable s t ∨ ∃ rd rs1 rs2 rs3 rs4 n c r, i = .breakmsg rd rs1 rs2 rs3 rs4 ∧ w = .search n c r)) ∧
  ∀ (rd rs1 rs2 rs3 rs4 : Reg) (s : State) (n c r : Nat), StateInv s → s.phase = .busy (.search n c r) →
    ∃ t, exec (.breakmsg rd rs1 rs2 rs3 rs4) s = .next t ∧ t.phase = .idle

/-- R222: a command that ends with an outcome other than `O_OK` writes no integer register, neither in its last move nor in
an earlier one, after which the engine is still BUSY. -/
def Obligations.OtherOutcomesWriteNoRegister : Prop :=
  ∀ (i : Instr) (s t : State), exec i s = .next t →
    (t.outcome ≠ .ok → SameRegsBut [] s t) ∧ ∀ w, t.phase = .busy w → SameRegsBut [] s t

/-! ## Frames of all commands -/

/-- R22: a command writes no integer register but its destinations. -/
def Obligations.OnlyDestinationsChange : Prop :=
  ∀ (i : Instr) (s t : State), exec i s = .next t → SameRegsBut i.destinations s t

/-- R50: no command changes CTRL, ROUNDS, KGLIMIT, LASTCMD or PARAM, and none touches the other agents' events. -/
def Obligations.ControlRegistersAreKept : Prop :=
  ∀ (i : Instr) (s t : State), exec i s = .next t → SameControls s t

/-- R50, R51, R216: only BUILDTAB and BREAK change the table or TABLEN; BUILDTAB changes no entry from its `r` on, BREAK
none from `2^bit_width` on, and BREAK's search none at all. -/
def Obligations.TableIsKept : Prop :=
  (∀ (i : Instr) (s t : State), i.writesTable = false → exec i s = .next t → SameTable s t) ∧
  (∀ (rs1 rs2 rs3 : Reg) (s t : State), exec (.buildtab rs1 rs2 rs3) s = .next t →
    ∀ k : Nat, s.reg rs3 ≤ k → Table.read? t.table k = Table.read? s.table k) ∧
  (∀ (rd rs1 rs2 rs3 rs4 : Reg) (s t : State), exec (.breakmsg rd rs1 rs2 rs3 rs4) s = .next t →
    ∀ k : Nat, 2 ^ (s.reg rs4).toNat ≤ k → Table.read? t.table k = Table.read? s.table k) ∧
  ∀ (rd rs1 rs2 rs3 rs4 : Reg) (s t : State) (n c r : Nat), s.phase = .busy (.search n c r) →
    exec (.breakmsg rd rs1 rs2 rs3 rs4) s = .next t → SameTable s t

/-- R90, R238: no command stops the machine: every move of every command answers a next state. -/
def Obligations.EveryMoveAnswersNext : Prop :=
  ∀ (i : Instr) (s : State), ∃ t, exec i s = .next t

/-! ## Reset, status, host access -/

/-- R37: the state after reset, on any instance. That `State.reset` is the suggested instance is the model's own choice
(log 1). -/
def Obligations.ResetValues : Prop :=
  (∀ p : Params, (∀ r, (State.resetOf p).reg r = 0) ∧ (State.resetOf p).phase = .idle ∧
    (State.resetOf p).statusWord = 0 ∧ (State.resetOf p).ie = false ∧ (State.resetOf p).rounds = 64 ∧
    (State.resetOf p).kglimit = 65536 ∧ (State.resetOf p).tablen = 0 ∧ (State.resetOf p).lastcmd = 0 ∧
    (State.resetOf p).params = p ∧ (State.resetOf p).port = .free ∧ (State.resetOf p).irq = false) ∧
  State.reset = State.resetOf Params.suggested

/-- R260, R261: in every phase the hard reset, and a CTRL write with bit 1 set whatever its other bits, put every piece of
the CORE's state at its reset value. (`pending`, `clock` and `response` are the model's own, logs 3 and 12.) -/
def Obligations.ResetsRestoreTheResetState : Prop :=
  ∀ (s : State) (tr : Transaction) (rest : List Event), s.pending = .host tr :: rest →
    (tr = .hardReset ∨ ∃ w : Word, tr = .writeReg 0x08 w ∧ w.getLsbD 1 = true) →
    ∃ t, step s = .next t ∧
      t = { State.resetOf s.params with pending := t.pending, clock := t.clock, response := t.response }

/-- R25, R220, R226, R240: the bits of STATUS with the numbers of the outcome and fault codes, and the interrupt line. -/
def Obligations.StatusWordAndInterrupt : Prop :=
  ∀ s : State, s.statusWord.getLsbD 0 = s.busy ∧ s.statusWord.getLsbD 1 = s.done ∧
    s.statusWord.getLsbD 2 = s.faulted ∧ s.statusWord.getLsbD 3 = false ∧
    (s.busy = true ↔ ∃ w, s.phase = .busy w) ∧ (s.faulted = true ↔ ∃ c, s.phase = .faulted c) ∧
    (s.statusWord.extractLsb' 4 4).toNat = (match s.outcome with
      | .ok => 0 | .noInverse => 1 | .notFound => 2 | .noPrime => 3 | .outOfRange => 4 | .noExponent => 5) ∧
    (s.statusWord.extractLsb' 8 4).toNat = (match s.phase with
      | .idle => 0 | .busy _ => 0 | .faulted .opcode => 1 | .faulted .config => 2 | .faulted .modulus => 3
      | .faulted .operand => 4 | .faulted .width => 5 | .faulted .table => 6 | .faulted .capacity => 7
      | .faulted .rng => 8) ∧
    s.statusWord.extractLsb' 12 20 = 0 ∧ (s.irq = true ↔ s.ie = true ∧ (s.done = true ∨ s.faulted = true))

/-- R25: under the invariant at most one of BUSY, DONE, FAULT is 1. -/
def Obligations.AtMostOneStatusBit : Prop :=
  ∀ s : State, StateInv s → s.busy.toNat + s.done.toNat + s.faulted.toNat ≤ 1

/-- R60, R61: `WriteX` writes its register while IDLE and is dropped otherwise; `ReadX` returns the register while IDLE
or FAULTED, and while BUSY returns an unspecified integer and changes nothing of the CORE. R55, R61, R67, R32: `ReadReg` of an
offset below 0x1000 changes nothing in any phase and returns STATUS, CTRL (SRST reads 0), ROUNDS, KGLIMIT, TABLEN, LASTCMD or
PARAM, and 0 for CMD and an unmapped offset. (`clock` and `response` are the model's own, logs 8 and 12.) -/
def Obligations.HostReadsAndWritesRegisters : Prop :=
  ∀ (s : State) (i : Reg) (rest : List Event),
    (∀ v : Int, s.pending = .host (.writeX i v) :: rest → fits s.params v = true →
      (s.phase = .idle → ∃ t, step s = .next t ∧ t.reg i = v ∧ (∀ r, r ≠ i → t.x.get r = s.x.get r) ∧
        t = { s with x := t.x, pending := rest, response := .ack }) ∧
      (s.phase ≠ .idle → step s = .next { s with pending := rest, response := .ack })) ∧
    (s.pending = .host (.readX i) :: rest →
      (s.busy = false → step s = .next { s with pending := rest, response := .integer (s.reg i) }) ∧
      (s.busy = true → ∃ v, step s =
        .next { s with pending := rest, clock := s.clock + 1, response := .integer v })) ∧
    ∀ off : Nat, off % 4 = 0 → off < 0x1000 → s.pending = .host (.readReg off) :: rest →
      ∃ v : Word, step s = .next { s with pending := rest, response := .word v } ∧
        (off = 0x04 → v = s.statusWord) ∧ (off = 0x08 → v = if s.ie then 1 else 0) ∧
        (off = 0x0C → v.toNat = s.rounds.toNat) ∧ (off = 0x10 → v = s.kglimit) ∧ (off = 0x14 → v = s.tablen) ∧
        (off = 0x18 → v = s.lastcmd) ∧
        (off = 0x1C → (v.extractLsb' 0 8).toNat = s.params.kmax.val ∧ v.extractLsb' 8 8 = 0 ∧
          (v.extractLsb' 16 16).toNat = s.params.limbs.val) ∧
        (off = 0x00 ∨ 0x20 ≤ off → v = 0)

/-- R25, R27, R28, R36, R61: ROUNDS keeps bits 15:0 and reads them back, KGLIMIT keeps 32 bits, and a 1 in STATUS bit 1
clears DONE and leaves OUTCOME, while IDLE; otherwise these writes are dropped. R26, R61: a CTRL write with bit 1 clear sets IE
to its bit 0 in every phase, and nothing else changes. R55: a write to TABLEN, LASTCMD, PARAM or an unmapped offset has no
effect in any phase. -/
def Obligations.ConfigurationWrites : Prop :=
  ∀ (s : State) (w : Word) (rest : List Event),
    (s.pending = .host (.writeReg 0x0C w) :: rest → ∃ t, step s = .next t ∧
      t = { s with pending := rest, response := .ack, rounds := t.rounds } ∧
      (s.phase = .idle → t.controlRead 0x0C = w &&& 0xFFFF) ∧ (s.phase ≠ .idle → t.rounds = s.rounds)) ∧
    (s.pending = .host (.writeReg 0x10 w) :: rest → ∃ t, step s = .next t ∧
      t = { s with pending := rest, response := .ack, kglimit := t.kglimit } ∧
      (s.phase = .idle → t.controlRead 0x10 = w) ∧ (s.phase ≠ .idle → t.kglimit = s.kglimit)) ∧
    (s.pending = .host (.writeReg 0x04 w) :: rest → ∃ t, step s = .next t ∧
      t = { s with pending := rest, response := .ack, done := t.done } ∧
      (s.phase = .idle → w.getLsbD 1 = true → t.done = false) ∧
      ((s.phase ≠ .idle ∨ w.getLsbD 1 = false) → t.done = s.done)) ∧
    (s.pending = .host (.writeReg 0x08 w) :: rest → w.getLsbD 1 = false →
      step s = .next { s with pending := rest, response := .ack, ie := w.getLsbD 0 }) ∧
    ∀ off : Nat, off % 4 = 0 → 0x14 ≤ off → off < 0x1000 → s.pending = .host (.writeReg off w) :: rest →
      step s = .next { s with pending := rest, response := .ack }

/-- R63, R65: on a finite-`W` instance, while IDLE, a write of limb `j` of register `i` at its offset changes only that
limb, and a write of the sign word only the sign; otherwise a window write is dropped (R61). R61, R63, R67: a read of a limb
or of the sign word while not BUSY returns that limb of the value's magnitude, or its sign, 0 over a zero magnitude, and changes
nothing; while BUSY it returns an unspecified word. That a sign bit written over a zero magnitude is kept is the model's own
reading (log 7); `clock` and `response` are the model's own (logs 8 and 12). -/
def Obligations.WindowWordWrites : Prop :=
  ∀ (s : State) (i : Reg) (w : Word) (rest : List Event) (base : Nat), s.params.limbs ≠ 0 →
    base = 0x1000 + i.val * (4 * (s.params.limbs.val + 1)) →
    (s.phase = .idle →
      (∀ j : Nat, j < s.params.limbs.val → s.pending = .host (.writeReg (base + 4 * (1 + j)) w) :: rest →
        ∃ t, step s = .next t ∧ (t.x.get i).limb j = w ∧ (∀ k, k ≠ j → (t.x.get i).limb k = (s.x.get i).limb k) ∧
          (t.x.get i).neg = (s.x.get i).neg ∧ SameRegsBut [i] s t ∧
          t = { s with x := t.x, pending := rest, response := .ack }) ∧
      (s.pending = .host (.writeReg base w) :: rest →
        ∃ t, step s = .next t ∧ (t.x.get i).neg = w.getLsbD 0 ∧ (t.x.get i).mag = (s.x.get i).mag ∧
          SameRegsBut [i] s t ∧ t = { s with x := t.x, pending := rest, response := .ack })) ∧
    (s.phase ≠ .idle → ∀ k : Nat, k ≤ s.params.limbs.val → s.pending = .host (.writeReg (base + 4 * k) w) :: rest →
      step s = .next { s with pending := rest, response := .ack }) ∧
    (s.busy = false →
      (∀ j : Nat, j < s.params.limbs.val → s.pending = .host (.readReg (base + 4 * (1 + j))) :: rest →
        ∃ v : Word, step s = .next { s with pending := rest, response := .word v } ∧
          v.toNat = (s.reg i).natAbs / 2 ^ (32 * j) % 2 ^ 32) ∧
      (s.pending = .host (.readReg base) :: rest →
        step s = .next { s with pending := rest, response := .word (if s.reg i < 0 then 1 else 0) })) ∧
    (s.busy = true → ∀ k : Nat, k ≤ s.params.limbs.val → s.pending = .host (.readReg (base + 4 * k)) :: rest →
      ∃ v : Word, step s = .next { s with pending := rest, clock := s.clock + 1, response := .word v })

/-- R66: a misaligned 32-bit access and an access of another width get a bus error and change nothing. -/
def Obligations.BusErrorsChangeNothing : Prop :=
  ∀ (s : State) (t : Transaction) (rest : List Event), s.pending = .host t :: rest →
    ((∃ off w, t = .writeReg off w ∧ off % 4 ≠ 0) ∨ (∃ off, t = .readReg off ∧ off % 4 ≠ 0) ∨
      ∃ width off, t = .oddAccess width off) →
    step s = .next { s with pending := rest, response := .busError }

/-! ## Whole-machine rules -/

/-- R242, R243: from FAULTED every step keeps the phase with its fault code and every other piece of the CORE's state but
CTRL.IE, or its event is a hard reset or a CTRL write with bit 1 set and it gives the reset state. (No request is outstanding
then, by the invariant `StateInv`.) -/
def Obligations.FaultedUntilReset : Prop :=
  ∀ (s t : State) (c : FaultCode), s.phase = .faulted c → s.port = .free → step s = .next t →
    (t = { s with ie := t.ie, pending := t.pending, clock := t.clock, response := t.response }) ∨
    ((s.takeEvent.1 = .host .hardReset ∨
        ∃ w : Word, s.takeEvent.1 = .host (.writeReg 0x08 w) ∧ w.getLsbD 1 = true) ∧
      t = { State.resetOf s.params with pending := t.pending, clock := t.clock, response := t.response })

/-- R61, R70, R270: while BUSY a host transaction that neither resets nor writes CTRL changes nothing of the CORE. -/
def Obligations.BusyShieldsTheCommand : Prop :=
  ∀ (s t : State) (tr : Transaction) (rest : List Event), s.busy = true → s.pending = .host tr :: rest →
    tr ≠ .hardReset → (∀ w, tr ≠ .writeReg 0x08 w) → step s = .next t →
    t = { s with pending := rest, clock := t.clock, response := t.response }

/-- R20, R25, R29, R34, R51, R52, R227, R247: every step keeps the invariant `StateInv`, from every state that meets it. -/
def Obligations.StepKeepsInvariant : Prop :=
  ∀ s t : State, StateInv s → step s = .next t → StateInv t

/-- R37: the invariant holds after reset, on every instance. -/
def Obligations.InvariantAtReset : Prop :=
  ∀ p : Params, StateInv (State.resetOf p)
end

