-- ==== Sys2Proof/Laws/State.lean ====
section
/-! SUPPORT. One lemma per field and per update of State, each true by unfolding the update, so that no proof unfolds a
record update. All are simp lemmas but State.setReg_x: Laws/Ops.lean says what each register holds after a write. -/

namespace Sys2Proof.Machine

variable (s : State)

/-! ## State.setReg -/

@[simp] theorem State.setReg_params (i : Reg) (v : Int) : (s.setReg i v).params = s.params := rfl
theorem State.setReg_x (i : Reg) (v : Int) : (s.setReg i v).x = s.x.set i.val (IntReg.ofInt v) i.isLt := rfl
@[simp] theorem State.setReg_phase (i : Reg) (v : Int) : (s.setReg i v).phase = s.phase := rfl
@[simp] theorem State.setReg_done (i : Reg) (v : Int) : (s.setReg i v).done = s.done := rfl
@[simp] theorem State.setReg_outcome (i : Reg) (v : Int) : (s.setReg i v).outcome = s.outcome := rfl
@[simp] theorem State.setReg_ie (i : Reg) (v : Int) : (s.setReg i v).ie = s.ie := rfl
@[simp] theorem State.setReg_rounds (i : Reg) (v : Int) : (s.setReg i v).rounds = s.rounds := rfl
@[simp] theorem State.setReg_kglimit (i : Reg) (v : Int) : (s.setReg i v).kglimit = s.kglimit := rfl
@[simp] theorem State.setReg_lastcmd (i : Reg) (v : Int) : (s.setReg i v).lastcmd = s.lastcmd := rfl
@[simp] theorem State.setReg_tablen (i : Reg) (v : Int) : (s.setReg i v).tablen = s.tablen := rfl
@[simp] theorem State.setReg_table (i : Reg) (v : Int) : (s.setReg i v).table = s.table := rfl
@[simp] theorem State.setReg_port (i : Reg) (v : Int) : (s.setReg i v).port = s.port := rfl
@[simp] theorem State.setReg_pending (i : Reg) (v : Int) : (s.setReg i v).pending = s.pending := rfl
@[simp] theorem State.setReg_clock (i : Reg) (v : Int) : (s.setReg i v).clock = s.clock := rfl
@[simp] theorem State.setReg_response (i : Reg) (v : Int) : (s.setReg i v).response = s.response := rfl

/-! ## State.raise -/

@[simp] theorem State.raise_params (c : FaultCode) : (s.raise c).params = s.params := rfl
@[simp] theorem State.raise_x (c : FaultCode) : (s.raise c).x = s.x := rfl
@[simp] theorem State.raise_phase (c : FaultCode) : (s.raise c).phase = .faulted c := rfl
@[simp] theorem State.raise_done (c : FaultCode) : (s.raise c).done = false := rfl
@[simp] theorem State.raise_outcome (c : FaultCode) : (s.raise c).outcome = .ok := rfl
@[simp] theorem State.raise_ie (c : FaultCode) : (s.raise c).ie = s.ie := rfl
@[simp] theorem State.raise_rounds (c : FaultCode) : (s.raise c).rounds = s.rounds := rfl
@[simp] theorem State.raise_kglimit (c : FaultCode) : (s.raise c).kglimit = s.kglimit := rfl
@[simp] theorem State.raise_lastcmd (c : FaultCode) : (s.raise c).lastcmd = s.lastcmd := rfl
@[simp] theorem State.raise_tablen (c : FaultCode) : (s.raise c).tablen = s.tablen := rfl
@[simp] theorem State.raise_table (c : FaultCode) : (s.raise c).table = s.table := rfl
@[simp] theorem State.raise_port (c : FaultCode) : (s.raise c).port = .free := rfl
@[simp] theorem State.raise_pending (c : FaultCode) : (s.raise c).pending = s.pending := rfl
@[simp] theorem State.raise_clock (c : FaultCode) : (s.raise c).clock = s.clock := rfl
@[simp] theorem State.raise_response (c : FaultCode) : (s.raise c).response = s.response := rfl

/-! ## State.complete -/

@[simp] theorem State.complete_params (o : OutcomeCode) : (s.complete o).params = s.params := rfl
@[simp] theorem State.complete_x (o : OutcomeCode) : (s.complete o).x = s.x := rfl
@[simp] theorem State.complete_phase (o : OutcomeCode) : (s.complete o).phase = .idle := rfl
@[simp] theorem State.complete_done (o : OutcomeCode) : (s.complete o).done = true := rfl
@[simp] theorem State.complete_outcome (o : OutcomeCode) : (s.complete o).outcome = o := rfl
@[simp] theorem State.complete_ie (o : OutcomeCode) : (s.complete o).ie = s.ie := rfl
@[simp] theorem State.complete_rounds (o : OutcomeCode) : (s.complete o).rounds = s.rounds := rfl
@[simp] theorem State.complete_kglimit (o : OutcomeCode) : (s.complete o).kglimit = s.kglimit := rfl
@[simp] theorem State.complete_lastcmd (o : OutcomeCode) : (s.complete o).lastcmd = s.lastcmd := rfl
@[simp] theorem State.complete_tablen (o : OutcomeCode) : (s.complete o).tablen = s.tablen := rfl
@[simp] theorem State.complete_table (o : OutcomeCode) : (s.complete o).table = s.table := rfl
@[simp] theorem State.complete_port (o : OutcomeCode) : (s.complete o).port = .free := rfl
@[simp] theorem State.complete_pending (o : OutcomeCode) : (s.complete o).pending = s.pending := rfl
@[simp] theorem State.complete_clock (o : OutcomeCode) : (s.complete o).clock = s.clock := rfl
@[simp] theorem State.complete_response (o : OutcomeCode) : (s.complete o).response = s.response := rfl

/-! ## State.continueWith -/

@[simp] theorem State.continueWith_params (w : Work) : (s.continueWith w).params = s.params := rfl
@[simp] theorem State.continueWith_x (w : Work) : (s.continueWith w).x = s.x := rfl
@[simp] theorem State.continueWith_phase (w : Work) : (s.continueWith w).phase = .busy w := rfl
@[simp] theorem State.continueWith_done (w : Work) : (s.continueWith w).done = s.done := rfl
@[simp] theorem State.continueWith_outcome (w : Work) : (s.continueWith w).outcome = s.outcome := rfl
@[simp] theorem State.continueWith_ie (w : Work) : (s.continueWith w).ie = s.ie := rfl
@[simp] theorem State.continueWith_rounds (w : Work) : (s.continueWith w).rounds = s.rounds := rfl
@[simp] theorem State.continueWith_kglimit (w : Work) : (s.continueWith w).kglimit = s.kglimit := rfl
@[simp] theorem State.continueWith_lastcmd (w : Work) : (s.continueWith w).lastcmd = s.lastcmd := rfl
@[simp] theorem State.continueWith_tablen (w : Work) : (s.continueWith w).tablen = s.tablen := rfl
@[simp] theorem State.continueWith_table (w : Work) : (s.continueWith w).table = s.table := rfl
@[simp] theorem State.continueWith_port (w : Work) : (s.continueWith w).port = s.port := rfl
@[simp] theorem State.continueWith_pending (w : Work) : (s.continueWith w).pending = s.pending := rfl
@[simp] theorem State.continueWith_clock (w : Work) : (s.continueWith w).clock = s.clock := rfl
@[simp] theorem State.continueWith_response (w : Work) : (s.continueWith w).response = s.response := rfl

/-! ## State.accept -/

@[simp] theorem State.accept_params (w : Word) : (s.accept w).params = s.params := rfl
@[simp] theorem State.accept_x (w : Word) : (s.accept w).x = s.x := rfl
@[simp] theorem State.accept_phase (w : Word) : (s.accept w).phase = .busy .start := rfl
@[simp] theorem State.accept_done (w : Word) : (s.accept w).done = false := rfl
@[simp] theorem State.accept_outcome (w : Word) : (s.accept w).outcome = .ok := rfl
@[simp] theorem State.accept_ie (w : Word) : (s.accept w).ie = s.ie := rfl
@[simp] theorem State.accept_rounds (w : Word) : (s.accept w).rounds = s.rounds := rfl
@[simp] theorem State.accept_kglimit (w : Word) : (s.accept w).kglimit = s.kglimit := rfl
@[simp] theorem State.accept_lastcmd (w : Word) : (s.accept w).lastcmd = w := rfl
@[simp] theorem State.accept_tablen (w : Word) : (s.accept w).tablen = s.tablen := rfl
@[simp] theorem State.accept_table (w : Word) : (s.accept w).table = s.table := rfl
@[simp] theorem State.accept_port (w : Word) : (s.accept w).port = .free := rfl
@[simp] theorem State.accept_pending (w : Word) : (s.accept w).pending = s.pending := rfl
@[simp] theorem State.accept_clock (w : Word) : (s.accept w).clock = s.clock := rfl
@[simp] theorem State.accept_response (w : Word) : (s.accept w).response = s.response := rfl

/-! ## State.buildTable -/

@[simp] theorem State.buildTable_params (e n r : Nat) : (s.buildTable e n r).params = s.params := rfl
@[simp] theorem State.buildTable_x (e n r : Nat) : (s.buildTable e n r).x = s.x := rfl
@[simp] theorem State.buildTable_phase (e n r : Nat) : (s.buildTable e n r).phase = s.phase := rfl
@[simp] theorem State.buildTable_done (e n r : Nat) : (s.buildTable e n r).done = s.done := rfl
@[simp] theorem State.buildTable_outcome (e n r : Nat) : (s.buildTable e n r).outcome = s.outcome := rfl
@[simp] theorem State.buildTable_ie (e n r : Nat) : (s.buildTable e n r).ie = s.ie := rfl
@[simp] theorem State.buildTable_rounds (e n r : Nat) : (s.buildTable e n r).rounds = s.rounds := rfl
@[simp] theorem State.buildTable_kglimit (e n r : Nat) : (s.buildTable e n r).kglimit = s.kglimit := rfl
@[simp] theorem State.buildTable_lastcmd (e n r : Nat) : (s.buildTable e n r).lastcmd = s.lastcmd := rfl
@[simp] theorem State.buildTable_tablen (e n r : Nat) : (s.buildTable e n r).tablen = BitVec.ofNat 32 r := rfl
@[simp] theorem State.buildTable_table (e n r : Nat) : (s.buildTable e n r).table = Table.writeFrom s.table 0 (tableEntries e n r) := rfl
@[simp] theorem State.buildTable_port (e n r : Nat) : (s.buildTable e n r).port = s.port := rfl
@[simp] theorem State.buildTable_pending (e n r : Nat) : (s.buildTable e n r).pending = s.pending := rfl
@[simp] theorem State.buildTable_clock (e n r : Nat) : (s.buildTable e n r).clock = s.clock := rfl
@[simp] theorem State.buildTable_response (e n r : Nat) : (s.buildTable e n r).response = s.response := rfl

/-! ## State.respond -/

@[simp] theorem State.respond_params (r : Response) : (s.respond r).params = s.params := rfl
@[simp] theorem State.respond_x (r : Response) : (s.respond r).x = s.x := rfl
@[simp] theorem State.respond_phase (r : Response) : (s.respond r).phase = s.phase := rfl
@[simp] theorem State.respond_done (r : Response) : (s.respond r).done = s.done := rfl
@[simp] theorem State.respond_outcome (r : Response) : (s.respond r).outcome = s.outcome := rfl
@[simp] theorem State.respond_ie (r : Response) : (s.respond r).ie = s.ie := rfl
@[simp] theorem State.respond_rounds (r : Response) : (s.respond r).rounds = s.rounds := rfl
@[simp] theorem State.respond_kglimit (r : Response) : (s.respond r).kglimit = s.kglimit := rfl
@[simp] theorem State.respond_lastcmd (r : Response) : (s.respond r).lastcmd = s.lastcmd := rfl
@[simp] theorem State.respond_tablen (r : Response) : (s.respond r).tablen = s.tablen := rfl
@[simp] theorem State.respond_table (r : Response) : (s.respond r).table = s.table := rfl
@[simp] theorem State.respond_port (r : Response) : (s.respond r).port = s.port := rfl
@[simp] theorem State.respond_pending (r : Response) : (s.respond r).pending = s.pending := rfl
@[simp] theorem State.respond_clock (r : Response) : (s.respond r).clock = s.clock := rfl
@[simp] theorem State.respond_response (r : Response) : (s.respond r).response = r := rfl

/-! ## State.resetCore -/

@[simp] theorem State.resetCore_params : s.resetCore.params = s.params := rfl
@[simp] theorem State.resetCore_x : s.resetCore.x = Vector.replicate 16 ⟨false, 0⟩ := rfl
@[simp] theorem State.resetCore_phase : s.resetCore.phase = .idle := rfl
@[simp] theorem State.resetCore_done : s.resetCore.done = false := rfl
@[simp] theorem State.resetCore_outcome : s.resetCore.outcome = .ok := rfl
@[simp] theorem State.resetCore_ie : s.resetCore.ie = false := rfl
@[simp] theorem State.resetCore_rounds : s.resetCore.rounds = 64 := rfl
@[simp] theorem State.resetCore_kglimit : s.resetCore.kglimit = 0x00010000 := rfl
@[simp] theorem State.resetCore_lastcmd : s.resetCore.lastcmd = 0 := rfl
@[simp] theorem State.resetCore_tablen : s.resetCore.tablen = 0 := rfl
@[simp] theorem State.resetCore_table : s.resetCore.table = [] := rfl
@[simp] theorem State.resetCore_port : s.resetCore.port = .free := rfl
@[simp] theorem State.resetCore_pending : s.resetCore.pending = s.pending := rfl
@[simp] theorem State.resetCore_clock : s.resetCore.clock = s.clock := rfl
@[simp] theorem State.resetCore_response : s.resetCore.response = s.response := rfl

end Sys2Proof.Machine
end

