-- ==== Sys2Proof/Laws/Table.lean ====
section
/-! SUPPORT. The laws of the table memory: a read after a write, every other entry unchanged, and the canonical form
kept by every memory operation. -/

namespace Sys2Proof.Machine

/-- The entry written is the entry read. -/
theorem Table.read_write_same (t : Table) (k v : Nat) : Table.read? (Table.write t k v) k = some v := by
  induction t with
  | nil => simp [Table.write, Table.read?]
  | cons e t ih =>
    obtain ⟨a, u⟩ := e
    unfold Table.write
    split
    · simp [Table.read?]
    · split
      · simp [Table.read?]
      · rename_i h
        simp [Table.read?, Ne.symm h, ih]

/-- A write leaves every other entry alone (R51). -/
theorem Table.read_write_other (t : Table) {k j : Nat} (v : Nat) (h : j ≠ k) :
    Table.read? (Table.write t k v) j = Table.read? t j := by
  induction t with
  | nil => simp [Table.write, Table.read?, Ne.symm h]
  | cons e t ih =>
    obtain ⟨a, u⟩ := e
    unfold Table.write
    split
    · simp [Table.read?, Ne.symm h]
    · split
      · rename_i hk
        subst hk
        simp [Table.read?, Ne.symm h]
      · by_cases ha : a = j <;> simp [Table.read?, ha, ih]

/-- A table whose indices rise from `k` also has them rise from anything below. -/
theorem Table.risingFrom_mono {t : Table} {j k : Nat} (h : j ≤ k) (ht : Table.risingFrom k t = true) :
    Table.risingFrom j t = true := by
  cases t with
  | nil => rfl
  | cons e t =>
    obtain ⟨a, u⟩ := e
    simp only [Table.risingFrom, Bool.and_eq_true, decide_eq_true_eq] at ht ⊢
    exact ⟨h.trans ht.1, ht.2⟩

/-- A write at or above a bound keeps the indices rising from it. -/
theorem Table.risingFrom_write {t : Table} {b k : Nat} (v : Nat) (hb : b ≤ k) (ht : Table.risingFrom b t = true) :
    Table.risingFrom b (Table.write t k v) = true := by
  induction t generalizing b with
  | nil => simp [Table.write, Table.risingFrom, hb]
  | cons e t ih =>
    obtain ⟨a, u⟩ := e
    simp only [Table.risingFrom, Bool.and_eq_true, decide_eq_true_eq] at ht
    unfold Table.write
    split
    · rename_i h
      simp only [Table.risingFrom, Bool.and_eq_true, decide_eq_true_eq]
      exact ⟨hb, h, ht.2⟩
    · split
      · rename_i h
        subst h
        simp only [Table.risingFrom, Bool.and_eq_true, decide_eq_true_eq]
        exact ⟨hb, ht.2⟩
      · simp only [Table.risingFrom, Bool.and_eq_true, decide_eq_true_eq]
        exact ⟨ht.1, ih (by omega) ht.2⟩

/-- `MemWrite` keeps the canonical form. -/
theorem Table.wf_write {t : Table} (k v : Nat) (h : Table.wf t = true) : Table.wf (Table.write t k v) = true :=
  Table.risingFrom_write v (Nat.zero_le k) h

/-- Consecutive writes keep the canonical form. -/
theorem Table.wf_writeFrom {t : Table} (k : Nat) (vs : List Nat) (h : Table.wf t = true) :
    Table.wf (Table.writeFrom t k vs) = true := by
  induction vs generalizing t k with
  | nil => exact h
  | cons v vs ih => exact ih (k + 1) (Table.wf_write k v h)

/-- Consecutive writes leave every entry below their start alone. -/
theorem Table.read_writeFrom_below (t : Table) {j k : Nat} (vs : List Nat) (h : j < k) :
    Table.read? (Table.writeFrom t k vs) j = Table.read? t j := by
  induction vs generalizing t k with
  | nil => rfl
  | cons v vs ih =>
    rw [Table.writeFrom, ih _ (by omega), Table.read_write_other _ _ (by omega)]

/-- What an entry reads as after consecutive writes: the value written there, else what it read as before. -/
theorem Table.read_writeFrom (t : Table) (k i : Nat) (vs : List Nat) :
    Table.read? (Table.writeFrom t k vs) (k + i) = (vs[i]?).or (Table.read? t (k + i)) := by
  induction vs generalizing t k i with
  | nil => simp [Table.writeFrom]
  | cons v vs ih =>
    cases i with
    | zero => simp [Table.writeFrom, Table.read_writeFrom_below _ vs (Nat.lt_succ_self k), Table.read_write_same]
    | succ i =>
      have h := ih (Table.write t k v) (k + 1) i
      rw [show k + 1 + i = k + (i + 1) by omega, Table.read_write_other _ _ (by omega)] at h
      simpa [Table.writeFrom] using h

/-- `build_table` keeps the canonical form (R182). -/
theorem State.wf_buildTable {s : State} (e n r : Nat) (h : Table.wf s.table = true) :
    Table.wf (s.buildTable e n r).table = true :=
  Table.wf_writeFrom 0 _ h

/-- `build_table` writes as many entries as its width (R182). -/
theorem length_tableEntries (e n r : Nat) (h : 1 ≤ r) : (tableEntries e n r).length = r := by
  simp [tableEntries]
  omega

/-- Reset's table is in canonical form. -/
theorem wf_reset : Table.wf State.reset.table = true := rfl

end Sys2Proof.Machine
end

