-- ==== Sys2Proof/Laws/Ops.lean ====
section
/-! SUPPORT. For each shared operation one lemma that says everything it can do, to be cited instead of unfolding it. -/

namespace Sys2Proof.Machine

/-! ## Registers -/

@[simp] theorem IntReg.value_ofInt (v : Int) : (IntReg.ofInt v).value = v := by
  unfold IntReg.ofInt IntReg.value
  by_cases h : v < 0
  · simp only [h, decide_true, if_true]; omega
  · simp only [h, decide_false, Bool.false_eq_true, if_false]; omega

@[simp] theorem State.get_setReg_same (s : State) (i : Reg) (v : Int) :
    (s.setReg i v).x.get i = IntReg.ofInt v := by
  simp [State.setReg_x, Vector.get_eq_getElem]

theorem State.get_setReg_other (s : State) {i j : Reg} (v : Int) (h : j ≠ i) :
    (s.setReg i v).x.get j = s.x.get j := by
  have h' : i.val ≠ j.val := fun e => h (Fin.ext e.symm)
  simp [State.setReg_x, Vector.get_eq_getElem, Vector.getElem_set_ne _ _ h']

/-- A register write is read back, and every other register keeps its value (R17). -/
theorem State.reg_setReg (s : State) (i j : Reg) (v : Int) :
    (s.setReg i v).reg j = if j = i then v else s.reg j := by
  unfold State.reg
  by_cases h : j = i
  · subst h; simp
  · simp [State.get_setReg_other s v h, h]

@[simp] theorem State.reg_raise (s : State) (c : FaultCode) (r : Reg) : (s.raise c).reg r = s.reg r := rfl
@[simp] theorem State.reg_complete (s : State) (o : OutcomeCode) (r : Reg) : (s.complete o).reg r = s.reg r := rfl
@[simp] theorem State.reg_continueWith (s : State) (w : Work) (r : Reg) : (s.continueWith w).reg r = s.reg r := rfl
@[simp] theorem State.reg_buildTable (s : State) (e n r : Nat) (i : Reg) : (s.buildTable e n r).reg i = s.reg i := rfl

/-- Several register writes change `x` alone. -/
theorem State.setRegs_frame (s : State) (ws : List (Reg × Int)) : s.setRegs ws = { s with x := (s.setRegs ws).x } := by
  induction ws generalizing s with
  | nil => rfl
  | cons w ws ih =>
    show (s.setReg w.1 w.2).setRegs ws = { s with x := ((s.setReg w.1 w.2).setRegs ws).x }
    rw [ih (s.setReg w.1 w.2)]
    rfl

/-- Several register writes leave every register they do not name alone. -/
theorem State.get_setRegs_other (s : State) (ws : List (Reg × Int)) {r : Reg} (h : ∀ w ∈ ws, w.1 ≠ r) :
    (s.setRegs ws).x.get r = s.x.get r := by
  induction ws generalizing s with
  | nil => rfl
  | cons w ws ih =>
    show ((s.setReg w.1 w.2).setRegs ws).x.get r = s.x.get r
    rw [ih _ (fun w' hw => h w' (List.mem_cons_of_mem _ hw)),
      State.get_setReg_other s w.2 (h w (List.mem_cons_self ..)).symm]

/-! ## The end of a command -/

/-- A command with results either completes `O_OK` with all of them written, every one fitting, or raises F_CAPACITY with
none written (R231). -/
theorem State.finish_cases (s : State) (ws : List (Reg × Int)) :
    (s.finish ws = (s.setRegs ws).complete .ok ∧ ∀ w ∈ ws, fits s.params w.2 = true) ∨
    (s.finish ws = s.raise .capacity ∧ ∃ w ∈ ws, fits s.params w.2 = false) := by
  unfold State.finish
  by_cases h : (ws.all fun w => fits s.params w.2) = true
  · left
    simp only [h, if_true, true_and]
    simpa using h
  · right
    simp only [h]
    simpa using h

/-- When every result fits, the command completes with them. -/
theorem State.finish_of_fits (s : State) (ws : List (Reg × Int)) (h : ∀ w ∈ ws, fits s.params w.2 = true) :
    s.finish ws = (s.setRegs ws).complete .ok := by
  have : (ws.all fun w => fits s.params w.2) = true := by simpa using h
  simp [State.finish, this]

/-- A value no larger in magnitude than one that fits also fits (R11). -/
theorem fits_of_natAbs_le {p : Params} {u v : Int} (h : u.natAbs ≤ v.natAbs) (hv : fits p v = true) :
    fits p u = true := by
  unfold fits at hv ⊢
  split at hv
  · rfl
  · simp only [decide_eq_true_eq] at hv ⊢
    exact Nat.lt_of_le_of_lt h hv

/-! ## The randomness port -/

/-- `Draw(lo, hi)` presents its request, waits, faults on an answer out of range, or takes the answer (R245, R246). -/
theorem State.draw_cases (s : State) (lo hi : Int) :
    (s.port = .free ∧ s.draw lo hi = .wait { s with port := .asked lo hi }) ∨
    (∃ l h, s.port = .asked l h ∧ s.draw lo hi = .wait s) ∨
    (∃ l h v, s.port = .answered l h v ∧ ¬(l ≤ v ∧ v ≤ h) ∧ s.draw lo hi = .bad (s.raise .rng)) ∨
    (∃ l h v, s.port = .answered l h v ∧ l ≤ v ∧ v ≤ h ∧ s.draw lo hi = .value v { s with port := .free }) := by
  unfold State.draw
  split
  · rename_i hp; exact .inl ⟨hp, rfl⟩
  · rename_i l h hp; exact .inr (.inl ⟨l, h, hp, rfl⟩)
  · rename_i l h v hp
    by_cases hr : l ≤ v ∧ v ≤ h
    · rw [if_pos hr]; exact .inr (.inr (.inr ⟨l, h, v, hp, hr.1, hr.2, rfl⟩))
    · rw [if_neg hr]; exact .inr (.inr (.inl ⟨l, h, v, hp, hr, rfl⟩))

/-- An answer is taken by an outstanding request, else discarded (R245, R247). -/
theorem State.receive_cases (s : State) (v : Int) :
    (∃ lo hi, s.port = .asked lo hi ∧ s.receive v = { s with port := .answered lo hi v }) ∨ s.receive v = s := by
  unfold State.receive
  split
  · rename_i lo hi hp; exact .inl ⟨lo, hi, hp, rfl⟩
  · exact .inr rfl
  · exact .inr rfl

/-! ## One move of the oracle -/

/-- A move of `is_probable_prime` ends all rounds passed, at its draw, discards a zero, passes a round, or fails one
(R134). -/
theorem State.oracleMove_cases (s : State) (o : Oracle) :
    (s.rounds.toNat < o.round ∧ s.oracleMove o = .verdict true s) ∨
    (o.round ≤ s.rounds.toNat ∧ (∃ t, (s.draw 0 (o.n - 1) = .wait t ∨ s.draw 0 (o.n - 1) = .bad t) ∧
      s.oracleMove o = .stop t)) ∨
    (o.round ≤ s.rounds.toNat ∧ ∃ a t, s.draw 0 (o.n - 1) = .value a t ∧
      ((a = 0 ∧ s.oracleMove o = .again o t) ∨
       (a ≠ 0 ∧ witnessTest a.toNat o.s o.d o.n = true ∧
          s.oracleMove o = .again { o with round := o.round + 1 } t) ∨
       (a ≠ 0 ∧ witnessTest a.toNat o.s o.d o.n = false ∧ s.oracleMove o = .verdict false t))) := by
  unfold State.oracleMove
  by_cases hr : s.rounds.toNat < o.round
  · simp [hr]
  · right
    rw [if_neg hr]
    have hle : o.round ≤ s.rounds.toNat := Nat.le_of_not_lt hr
    split
    · rename_i t h; exact .inl ⟨hle, t, .inl h, rfl⟩
    · rename_i t h; exact .inl ⟨hle, t, .inr h, rfl⟩
    · rename_i a t h
      refine .inr ⟨hle, a, t, h, ?_⟩
      by_cases ha : a = 0
      · exact .inl ⟨ha, by rw [if_pos ha]⟩
      · right
        rw [if_neg ha]
        by_cases hw : witnessTest a.toNat o.s o.d o.n = true
        · exact .inl ⟨ha, hw, by rw [if_pos hw]⟩
        · exact .inr ⟨ha, by simpa using hw, by rw [if_neg hw]⟩

/-! ## The search -/

/-- The search completes `O_NOT_FOUND`, or ends with its result (R188). -/
theorem searchAndEnd_cases (rd : Reg) (n c r : Nat) (s : State) :
    (findMessage s.memRead n c r = none ∧ searchAndEnd rd n c r s = s.complete .notFound) ∨
    (∃ v : Nat, findMessage s.memRead n c r = some v ∧ searchAndEnd rd n c r s = s.finish [(rd, (v : Int))]) := by
  unfold searchAndEnd
  split
  · rename_i h; exact .inl ⟨h, rfl⟩
  · rename_i v h; exact .inr ⟨v, h, rfl⟩

/-! ## Events and the command register -/

/-- The event that comes next: the first one listed, else the free environment's. -/
theorem State.takeEvent_cases (s : State) :
    (∃ e rest, s.pending = e :: rest ∧ s.takeEvent = (e, { s with pending := rest })) ∨
    (s.pending = [] ∧ s.takeEvent = (Config.environment s.clock, { s with clock := s.clock + 1 })) := by
  unfold State.takeEvent
  split
  · rename_i e rest h; exact .inl ⟨e, rest, h, rfl⟩
  · rename_i h; exact .inr ⟨h, rfl⟩

/-- A host write to CMD is dropped, is accepted, or raises F_OPCODE (R24, R35, R227). -/
theorem State.issue_cases (s : State) (w : Word) :
    (s.phase ≠ .idle ∧ s.issue w = s) ∨
    (s.phase = .idle ∧ (∃ i, decodeWord w = .ok i) ∧ s.issue w = s.accept w) ∨
    (s.phase = .idle ∧ (∃ e, decodeWord w = .error e) ∧ s.issue w = (s.accept w).raise .opcode) := by
  unfold State.issue
  split
  · rename_i hp
    split
    · rename_i i h; exact .inr (.inl ⟨hp, ⟨i, h⟩, rfl⟩)
    · rename_i e h; exact .inr (.inr ⟨hp, ⟨e, h⟩, rfl⟩)
  · rename_i w' hp; exact .inl ⟨by simp [hp], rfl⟩
  · rename_i c hp; exact .inl ⟨by simp [hp], rfl⟩

/-- The engine moves only while BUSY, and then on the command LASTCMD holds (R35, R31). -/
theorem State.engineMove_cases (s : State) :
    (∃ w i, s.phase = .busy w ∧ decodeWord s.lastcmd = .ok i ∧ s.engineMove = exec i s) ∨
    (∃ w e, s.phase = .busy w ∧ decodeWord s.lastcmd = .error e ∧ s.engineMove = .next (s.raise .opcode)) ∨
    ((∀ w, s.phase ≠ .busy w) ∧ s.engineMove = .next s) := by
  unfold State.engineMove
  split
  · rename_i w hp
    split
    · rename_i i h; exact .inl ⟨w, i, hp, h, rfl⟩
    · rename_i e h; exact .inr (.inl ⟨w, e, hp, h, rfl⟩)
  · rename_i hp; exact .inr (.inr ⟨by simp [hp], rfl⟩)
  · rename_i c hp; exact .inr (.inr ⟨by simp [hp], rfl⟩)

end Sys2Proof.Machine
end

