-- ==== Sys2Proof/Laws/Exec.lean ====
section
/-! SUPPORT. Everything one move of a command can do to the machine, said once (`exec_move`); frames of all commands
follow from it by cases. -/

namespace Sys2Proof.Machine

/-- What one engine move on the command `i` can make of `s`. -/
inductive Move (i : Instr) (s : State) : State → Prop where
  /-- A fault is raised. -/
  | raised (c : FaultCode) : Move i s (s.raise c)
  /-- The command completes without a result. -/
  | ended (o : OutcomeCode) : Move i s (s.complete o)
  /-- The command completes with results, every one fitting, in its destinations. -/
  | finished (ws : List (Reg × Int)) (dest : ∀ w ∈ ws, w.1 ∈ i.destinations)
      (fit : ∀ w ∈ ws, fits s.params w.2 = true) : Move i s ((s.setRegs ws).complete .ok)
  /-- The command stays BUSY, with the port and the working registers given. -/
  | goesOn (p : Port) (w : Work) : Move i s { s with port := p, phase := .busy w }
  /-- The command waits at a draw: only the port may have changed. -/
  | waits (p : Port) : Move i s { s with port := p }
  /-- BUILDTAB: the table is written and the command completes. -/
  | built (rs1 rs2 rs3 : Reg) (e n r : Nat) (hi : i = .buildtab rs1 rs2 rs3) (hr : (r : Int) = s.reg rs3)
      (fit : tableFits s.params e n r = true) : Move i s ((s.buildTable e n r).complete .ok)
  /-- BREAK: the table is written and the search is to come. -/
  | searching (rd rs1 rs2 rs3 rs4 : Reg) (e n c : Nat) (hi : i = .breakmsg rd rs1 rs2 rs3 rs4)
      (fit : tableFits s.params e n (2 ^ (s.reg rs4).toNat) = true) :
      Move i s ((s.buildTable e n (2 ^ (s.reg rs4).toNat)).continueWith (.search n c (2 ^ (s.reg rs4).toNat)))

/-- A command with results moves as `Move` says. -/
theorem Move.finish {i : Instr} (s : State) (ws : List (Reg × Int)) (dest : ∀ w ∈ ws, w.1 ∈ i.destinations) :
    Move i s (s.finish ws) := by
  rcases s.finish_cases ws with ⟨h, hf⟩ | ⟨h, -⟩
  · rw [h]; exact .finished ws dest hf
  · rw [h]; exact .raised .capacity

/-- Freeing the port first makes no difference to a command's end. -/
theorem State.finish_port (s : State) (p : Port) (ws : List (Reg × Int)) :
    ({ s with port := p } : State).finish ws = s.finish ws := by
  unfold State.finish
  split
  · show (({ s with port := p } : State).setRegs ws).complete .ok = (s.setRegs ws).complete .ok
    have key : ∀ (ws : List (Reg × Int)) (u : State),
        ({ u with port := p } : State).setRegs ws = { u.setRegs ws with port := p } := by
      intro ws
      induction ws with
      | nil => intro u; rfl
      | cons w ws ih => intro u; exact ih (u.setReg w.1 w.2)
    rw [key]
    rfl
  · rfl

/-- The draw leaves the state as it is but for the port, or faults. -/
theorem Move.draw {i : Instr} {s t : State} {lo hi : Int} (h : s.draw lo hi = .wait t ∨ s.draw lo hi = .bad t) :
    Move i s t := by
  rcases s.draw_cases lo hi with ⟨-, hd⟩ | ⟨l, h', -, hd⟩ | ⟨l, h', v, -, -, hd⟩ | ⟨l, h', v, -, -, -, hd⟩ <;>
    rw [hd] at h <;> rcases h with h | h <;> cases h
  · exact .waits _
  · exact .waits s.port
  · exact .raised _

/-- A draw that is answered only frees the port. -/
theorem State.draw_value {s t : State} {lo hi v : Int} (h : s.draw lo hi = .value v t) :
    t = { s with port := .free } := by
  rcases s.draw_cases lo hi with ⟨-, hd⟩ | ⟨l, h', -, hd⟩ | ⟨l, h', w, -, -, hd⟩ | ⟨l, h', w, -, -, -, hd⟩ <;>
    rw [hd] at h <;> cases h
  rfl

/-- One move of ISPRIME in its loop. -/
theorem isprimeLoop_move (rd rs1 : Reg) (o : Oracle) (s : State) : Move (.isprime rd rs1) s (isprimeLoop rd o s) := by
  have dest : ∀ b, ∀ w ∈ [(rd, boolValue b)], w.1 ∈ (Instr.isprime rd rs1).destinations := by
    simp [Instr.destinations]
  unfold isprimeLoop
  rcases s.oracleMove_cases o with ⟨-, h⟩ | ⟨-, t, hd, h⟩ | ⟨-, a, t, hd, ⟨-, h⟩ | ⟨-, -, h⟩ | ⟨-, -, h⟩⟩ <;> rw [h]
  · exact .finish s _ (dest true)
  · exact .draw hd
  · rw [State.draw_value hd]; exact .goesOn _ _
  · rw [State.draw_value hd]; exact .goesOn _ _
  · rw [State.draw_value hd]
    show Move _ s (State.finish { s with port := .free } _)
    rw [State.finish_port]
    exact .finish s _ (dest false)

/-- One move of a running GENKEY. -/
theorem genkeyMove_move (rd rd2 rd3 rs1 rs2 : Reg) (g : KeyWork) (s : State) :
    Move (.genkey rd rd2 rd3 rs1 rs2) s (genkeyMove rd rd2 rd3 g s) := by
  have go : ∀ w, Move (.genkey rd rd2 rd3 rs1 rs2) s (s.continueWith w) := fun w => .goesOn s.port w
  unfold genkeyMove
  split
  · unfold keySide
    split
    · exact go _
    · split
      · exact .ended _
      · exact go _
  · unfold keyCandidate
    split
    · rename_i t hd; exact .draw (.inl hd)
    · rename_i t hd; exact .draw (.inr hd)
    · rename_i v t hd
      rw [State.draw_value hd]
      split <;> exact .goesOn _ _
  · rename_i σ o _
    unfold keyTest
    rcases s.oracleMove_cases o with ⟨-, h⟩ | ⟨-, t, hd, h⟩ | ⟨-, a, t, hd, ⟨-, h⟩ | ⟨-, -, h⟩ | ⟨-, -, h⟩⟩ <;> rw [h]
    · exact go _
    · exact .draw hd
    all_goals rw [State.draw_value hd]; exact .goesOn _ _
  · unfold keyJudge
    split
    · simp only [keyModulus]
      split
      · split
        · exact .ended _
        · exact go _
      · exact go _
    all_goals exact go _
  · unfold keyExponent
    split
    · rename_i t hd; exact .draw (.inl hd)
    · rename_i t hd; exact .draw (.inr hd)
    · rename_i e t hd
      rw [State.draw_value hd]
      split <;> exact .goesOn _ _
  · unfold keyInverse
    split
    · exact go _
    · exact .finish s _ (by simp [Instr.destinations])

/-- The search's move, of FINDMSG and of BREAK. -/
theorem searchAndEnd_move {i : Instr} (rd : Reg) (n c r : Nat) (s : State) (h : rd ∈ i.destinations) :
    Move i s (searchAndEnd rd n c r s) := by
  rcases searchAndEnd_cases rd n c r s with ⟨-, e⟩ | ⟨v, -, e⟩ <;> rw [e]
  · exact .ended _
  · exact .finish s _ (by simpa using h)

/-- Every move of every command is one of those of `Move`: in particular it answers a next state. -/
theorem exec_move (i : Instr) (s : State) : ∃ t, exec i s = .next t ∧ Move i s t := by
  cases i with
  | nop => exact ⟨_, rfl, .ended _⟩
  | modmul rd rs1 rs2 rs3 =>
    simp only [exec, execModmul]
    split
    · exact ⟨_, rfl, .raised _⟩
    · split
      · exact ⟨_, rfl, .raised _⟩
      · exact ⟨_, rfl, .finish s _ (by simp [Instr.destinations])⟩
  | modpow rd rs1 rs2 rs3 =>
    simp only [exec, execModpow]
    split
    · exact ⟨_, rfl, .raised _⟩
    · split
      · exact ⟨_, rfl, .raised _⟩
      · exact ⟨_, rfl, .finish s _ (by simp [Instr.destinations])⟩
  | gcd rd rs1 rs2 => exact ⟨_, rfl, .finish s _ (by simp [Instr.destinations])⟩
  | xgcd rd rd2 rd3 rs1 rs2 => exact ⟨_, rfl, .finish s _ (by simp [Instr.destinations])⟩
  | modinv rd rs1 rs2 =>
    simp only [exec, execModinv]
    split
    · exact ⟨_, rfl, .raised _⟩
    · split
      · exact ⟨_, rfl, .ended _⟩
      · exact ⟨_, rfl, .finish s _ (by simp [Instr.destinations])⟩
  | witness rd rs1 rs2 rs3 rs4 =>
    simp only [exec, execWitness]
    split
    · exact ⟨_, rfl, .raised _⟩
    · split
      · exact ⟨_, rfl, .raised _⟩
      · exact ⟨_, rfl, .finish s _ (by simp [Instr.destinations])⟩
  | isprime rd rs1 =>
    have start : Move (.isprime rd rs1) s (isprimeStart rd rs1 s) := by
      unfold isprimeStart
      split
      · exact .raised _
      · split
        · exact .finish s _ (by simp [Instr.destinations])
        · exact .goesOn s.port _
    simp only [exec, execIsprime]
    split
    · exact ⟨_, rfl, isprimeLoop_move rd rs1 _ s⟩
    all_goals exact ⟨_, rfl, start⟩
  | genkey rd rd2 rd3 rs1 rs2 =>
    have start : Move (.genkey rd rd2 rd3 rs1 rs2) s (genkeyStart rs1 rs2 s) := by
      simp only [genkeyStart]
      repeat' split
      · exact .raised _
      · exact .raised _
      · exact .raised _
      · exact .goesOn s.port _
    simp only [exec, execGenkey]
    split
    · exact ⟨_, rfl, genkeyMove_move rd rd2 rd3 rs1 rs2 _ s⟩
    all_goals exact ⟨_, rfl, start⟩
  | encrypt rd rs1 rs2 rs3 =>
    simp only [exec, execEncrypt]
    split
    · exact ⟨_, rfl, .raised _⟩
    · split
      · exact ⟨_, rfl, .raised _⟩
      · split
        · exact ⟨_, rfl, .ended _⟩
        · exact ⟨_, rfl, .finish s _ (by simp [Instr.destinations])⟩
  | decrypt rd rs1 rs2 rs3 =>
    simp only [exec, execDecrypt]
    split
    · exact ⟨_, rfl, .raised _⟩
    · split
      · exact ⟨_, rfl, .raised _⟩
      · exact ⟨_, rfl, .finish s _ (by simp [Instr.destinations])⟩
  | buildtab rs1 rs2 rs3 =>
    simp only [exec, execBuildtab]
    split
    · exact ⟨_, rfl, .raised _⟩
    · split
      · exact ⟨_, rfl, .raised _⟩
      · split
        · exact ⟨_, rfl, .raised _⟩
        · split
          · rename_i h hf
            exact ⟨_, rfl, .built rs1 rs2 rs3 _ _ _ rfl (by omega) hf⟩
          · exact ⟨_, rfl, .raised _⟩
  | findmsg rd rs1 rs2 rs3 =>
    simp only [exec, execFindmsg]
    split
    · exact ⟨_, rfl, .raised _⟩
    · split
      · exact ⟨_, rfl, .raised _⟩
      · split
        · exact ⟨_, rfl, .raised _⟩
        · split
          · exact ⟨_, rfl, .raised _⟩
          · exact ⟨_, rfl, searchAndEnd_move rd _ _ _ s (by simp [Instr.destinations])⟩
  | breakmsg rd rs1 rs2 rs3 rs4 =>
    have start : Move (.breakmsg rd rs1 rs2 rs3 rs4) s (breakStart rs1 rs2 rs3 rs4 s) := by
      simp only [breakStart]
      repeat' split
      · exact .raised _
      · exact .raised _
      · exact .raised _
      · rename_i hf; exact .searching rd rs1 rs2 rs3 rs4 _ _ _ rfl hf
      · exact .raised _
    simp only [exec, execBreakmsg]
    split
    · exact ⟨_, rfl, searchAndEnd_move rd _ _ _ s (by simp [Instr.destinations])⟩
    all_goals exact ⟨_, rfl, start⟩
  | tabrd rd rs1 =>
    simp only [exec, execTabrd]
    split
    · exact ⟨_, rfl, .raised _⟩
    · exact ⟨_, rfl, .finish s _ (by simp [Instr.destinations])⟩

end Sys2Proof.Machine
end

