-- ==== Sys2Proof/Laws/PerInstr.lean ====
section
/-! SUPPORT. Statements about every command as syntax, one lemma per constructor. -/

namespace Sys2Proof.Laws

/-- The opcode field of a command's word is the command's opcode (R81, R83). -/
def OpcodeField.Statement (i : Instr) : Prop := opcodeField (encode i) = opcodeOf i

/-- The opcode field of a packed word, whatever its register fields hold. -/
theorem opcodeField_packWord (op : Nat) (h : op < 256) (f2 f3 f4 f5 f6 f7 : Reg) :
    opcodeField (packWord op f2 f3 f4 f5 f6 f7) = op := by
  simp only [opcodeField, packWord, BitVec.toNat_ofNat]
  omega

theorem OpcodeField.nop : OpcodeField.Statement .nop :=
  opcodeField_packWord _ (by decide) _ _ _ _ _ _

theorem OpcodeField.modmul (rd rs1 rs2 rs3 : Reg) : OpcodeField.Statement (.modmul rd rs1 rs2 rs3) :=
  opcodeField_packWord _ (by decide) _ _ _ _ _ _

theorem OpcodeField.modpow (rd rs1 rs2 rs3 : Reg) : OpcodeField.Statement (.modpow rd rs1 rs2 rs3) :=
  opcodeField_packWord _ (by decide) _ _ _ _ _ _

theorem OpcodeField.gcd (rd rs1 rs2 : Reg) : OpcodeField.Statement (.gcd rd rs1 rs2) :=
  opcodeField_packWord _ (by decide) _ _ _ _ _ _

theorem OpcodeField.xgcd (rd rd2 rd3 rs1 rs2 : Reg) : OpcodeField.Statement (.xgcd rd rd2 rd3 rs1 rs2) :=
  opcodeField_packWord _ (by decide) _ _ _ _ _ _

theorem OpcodeField.modinv (rd rs1 rs2 : Reg) : OpcodeField.Statement (.modinv rd rs1 rs2) :=
  opcodeField_packWord _ (by decide) _ _ _ _ _ _

theorem OpcodeField.witness (rd rs1 rs2 rs3 rs4 : Reg) : OpcodeField.Statement (.witness rd rs1 rs2 rs3 rs4) :=
  opcodeField_packWord _ (by decide) _ _ _ _ _ _

theorem OpcodeField.isprime (rd rs1 : Reg) : OpcodeField.Statement (.isprime rd rs1) :=
  opcodeField_packWord _ (by decide) _ _ _ _ _ _

theorem OpcodeField.genkey (rd rd2 rd3 rs1 rs2 : Reg) : OpcodeField.Statement (.genkey rd rd2 rd3 rs1 rs2) :=
  opcodeField_packWord _ (by decide) _ _ _ _ _ _

theorem OpcodeField.encrypt (rd rs1 rs2 rs3 : Reg) : OpcodeField.Statement (.encrypt rd rs1 rs2 rs3) :=
  opcodeField_packWord _ (by decide) _ _ _ _ _ _

theorem OpcodeField.decrypt (rd rs1 rs2 rs3 : Reg) : OpcodeField.Statement (.decrypt rd rs1 rs2 rs3) :=
  opcodeField_packWord _ (by decide) _ _ _ _ _ _

theorem OpcodeField.buildtab (rs1 rs2 rs3 : Reg) : OpcodeField.Statement (.buildtab rs1 rs2 rs3) :=
  opcodeField_packWord _ (by decide) _ _ _ _ _ _

theorem OpcodeField.findmsg (rd rs1 rs2 rs3 : Reg) : OpcodeField.Statement (.findmsg rd rs1 rs2 rs3) :=
  opcodeField_packWord _ (by decide) _ _ _ _ _ _

theorem OpcodeField.breakmsg (rd rs1 rs2 rs3 rs4 : Reg) : OpcodeField.Statement (.breakmsg rd rs1 rs2 rs3 rs4) :=
  opcodeField_packWord _ (by decide) _ _ _ _ _ _

theorem OpcodeField.tabrd (rd rs1 : Reg) : OpcodeField.Statement (.tabrd rd rs1) :=
  opcodeField_packWord _ (by decide) _ _ _ _ _ _

end Sys2Proof.Laws
end

