-- ==== Sys2Proof/Tests/Slice0.lean ====
section
/-! SUPPORT. The model's own tests: decoding and single moves against the vectors of 95_test_vectors.md (their ids stand in the
names), ill-formed commands, and for each obligation a witness that meets its hypotheses. -/

namespace Sys2Proof.Tests

open Sys2Proof.Machine

/-! ## Helpers -/

/-- The instance `p` in phase `ph`, its registers from X0 on holding `vs`. -/
def on (p : Params) (ph : Phase) (vs : List Int) : State :=
  { State.resetOf p with phase := ph, x := Vector.ofFn fun i => IntReg.ofInt (vs.getD i.val 0) }

/-- The suggested instance with a command just accepted. -/
def cmd (vs : List Int) : State := on Params.suggested (.busy .start) vs

/-- STATUS and some registers of a next state. -/
def result (o : Host.Outcome State Fault Refusal) (rs : List Reg) : Option (Word × List Int) :=
  match o with
  | .next t => some (t.statusWord, rs.map t.reg)
  | .fault _ | .refused _ => none

/-- The next state of an outcome, if it has one. -/
def next? (o : Host.Outcome State Fault Refusal) : Option State :=
  match o with
  | .next t => some t
  | .fault _ | .refused _ => none

/-- What the host gets from one transaction on `s`. -/
def answerTo (s : State) (t : Transaction) : Option Response :=
  (next? (step { s with pending := [.host t] })).map State.response

/-! ## Ill-formed commands are refused (R86) -/

theorem test_ill_formed_xgcd_rd_rd2 : (Instr.xgcd 4 4 6 0 1).wellFormed = false := by decide
theorem test_ill_formed_xgcd_rd_rd3 : (Instr.xgcd 6 4 6 0 1).wellFormed = false := by decide
theorem test_ill_formed_xgcd_rd2_rd3 : (Instr.xgcd 4 6 6 0 1).wellFormed = false := by decide
theorem test_ill_formed_genkey_rd_rd2 : (Instr.genkey 8 8 10 0 1).wellFormed = false := by decide
theorem test_ill_formed_genkey_rd_rd3 : (Instr.genkey 8 9 8 0 1).wellFormed = false := by decide
theorem test_ill_formed_genkey_rd2_rd3 : (Instr.genkey 8 9 9 0 1).wellFormed = false := by decide
/-- R86, R88: a destination may be a source. -/
theorem test_well_formed_overlap : (Instr.xgcd 0 1 2 0 1).wellFormed = true := by decide

/-! ## Decoding the spec's words (section 2.1) -/

theorem test_decode_E1 : decodeWord 0x00000000 = .ok .nop := by decide
theorem test_decode_E2 : decodeWord 0x00210310 = .ok (.modmul 3 0 1 2) := by decide
theorem test_decode_E3 : decodeWord 0x00210411 = .ok (.modpow 4 0 1 2) := by decide
theorem test_decode_E4 : decodeWord 0x00010212 = .ok (.gcd 2 0 1) := by decide
theorem test_decode_E5 : decodeWord 0x65010413 = .ok (.xgcd 4 5 6 0 1) := by decide
theorem test_decode_E6 : decodeWord 0x00010214 = .ok (.modinv 2 0 1) := by decide
theorem test_decode_E7 : decodeWord 0x03210420 = .ok (.witness 4 0 1 2 3) := by decide
theorem test_decode_E8 : decodeWord 0x00000121 = .ok (.isprime 1 0) := by decide
theorem test_decode_E9 : decodeWord 0xA9010830 = .ok (.genkey 8 9 10 0 1) := by decide
theorem test_decode_E10 : decodeWord 0x00210340 = .ok (.encrypt 3 0 1 2) := by decide
theorem test_decode_E11 : decodeWord 0x00210341 = .ok (.decrypt 3 0 1 2) := by decide
theorem test_decode_E12 : decodeWord 0x00310050 = .ok (.buildtab 0 1 3) := by decide
theorem test_decode_E13 : decodeWord 0x00321451 = .ok (.findmsg 4 1 2 3) := by decide
theorem test_decode_E14 : decodeWord 0x03210452 = .ok (.breakmsg 4 0 1 2 3) := by decide
theorem test_decode_E15 : decodeWord 0x00006553 = .ok (.tabrd 5 6) := by decide
theorem test_decode_E17 : decodeWord 0x00FFFF11 = .ok (.modpow 15 15 15 15) := by decide
theorem test_decode_E22 : decodeWord 0x21010013 = .ok (.xgcd 0 1 2 0 1) := by decide
theorem test_decode_E28 : decodeWord 0x0F210452 = .ok (.breakmsg 4 0 1 2 15) := by decide
/-- E16, E18, E23, E24, E25, E27, E29: a must-be-zero bit of each format is set. -/
theorem test_decode_must_be_zero :
    [0xFFFFFF11, 0x00000100, 0x00100012, 0x00310150, 0x00010121, 0x10210310, 0x1F210452, 0x65110413].map decodeWord
      = List.replicate 8 (.error .mustBeZero) := by decide
/-- E19, E20, E21. -/
theorem test_decode_equal_destinations :
    [0x44010413, 0x64010613, 0x01010013].map decodeWord = List.replicate 3 (.error .equalDestinations) := by decide
/-- E26. -/
theorem test_decode_opcodes :
    [0xFF, 0x01, 0x15, 0x22, 0x31, 0x42, 0x54].map decodeWord = List.replicate 7 (.error .opcode) := by decide
/-- R64, R80: four bytes, little-endian. -/
theorem test_decode_bytes : decodeBytes [0x10, 0x03, 0x21, 0x00] = .ok (.modmul 3 0 1 2) ∧
    decodeBytes [0x10, 0x03, 0x21] = .error .length := by decide
theorem test_table_word : decodeTableWord 32 0x65010413 = some (.xgcd 4 5 6 0 1) ∧
    decodeTableWord 32 0x65110413 = none := by decide

/-! ## Encoding the commands (the same words) -/

theorem test_encode_words :
    [Instr.nop, .modmul 3 0 1 2, .modpow 4 0 1 2, .gcd 2 0 1, .xgcd 4 5 6 0 1, .modinv 2 0 1, .witness 4 0 1 2 3,
      .isprime 1 0].map encode
      = [0x00000000, 0x00210310, 0x00210411, 0x00010212, 0x65010413, 0x00010214, 0x03210420, 0x00000121] ∧
    [Instr.genkey 8 9 10 0 1, .encrypt 3 0 1 2, .decrypt 3 0 1 2, .buildtab 0 1 3, .findmsg 4 1 2 3,
      .breakmsg 4 0 1 2 3, .tabrd 5 6].map encode
      = [0xA9010830, 0x00210340, 0x00210341, 0x00310050, 0x00321451, 0x03210452, 0x00006553] := by decide

/-! ## One move of each command -/

/-- H2: NOP with IE set raises the interrupt line. -/
theorem test_nop : ∃ t, exec .nop { cmd [] with ie := true } = .next t ∧ t.statusWord = 2 ∧ t.irq = true :=
  ⟨_, rfl, by decide⟩

theorem test_modmul_L1 : result (exec (.modmul 3 0 1 2) (cmd [123, 456, 789])) [3] = some (0x2, [69]) := by decide
/-- The modulus is checked first. -/
theorem test_modmul_L13 : result (exec (.modmul 3 0 1 2) (cmd [-5, 5, 0])) [3] = some (0x304, [0]) := by decide

theorem test_modpow_M1 : result (exec (.modpow 4 0 1 2) (cmd [13, 17, 2773])) [4] = some (0x2, [219]) := by decide
theorem test_modpow_M3 : result (exec (.modpow 4 0 1 2) (cmd [5, 0, 1, 7, 9])) [4] = some (0x2, [0]) := by decide

theorem test_gcd_G4 : result (exec (.gcd 2 0 1) (cmd [48, -18])) [2] = some (0x2, [6]) := by decide
theorem test_gcd_G6 : result (exec (.gcd 0 0 1) (cmd [0, -9])) [0, 1] = some (0x2, [9, -9]) := by decide

theorem test_xgcd_X3 : result (exec (.xgcd 4 5 6 0 1) (cmd [-240, 46])) [4, 5, 6] = some (0x2, [9, 47, 2]) := by
  decide
/-- Program P3's last command: all sources are read before any destination is written. -/
theorem test_xgcd_overlap : result (exec (.xgcd 0 1 2 0 1) (cmd [1989, 2668])) [0, 1, 2]
    = some (0x2, [389, -290, 1]) := by decide

theorem test_modinv_I3 : result (exec (.modinv 2 0 1) (cmd [-3, 7])) [2] = some (0x2, [2]) := by decide
theorem test_modinv_I4 : result (exec (.modinv 2 0 1) (cmd [6, 9, 77])) [2] = some (0x12, [77]) := by decide

theorem test_witness_W1 : result (exec (.witness 4 0 1 2 3) (cmd [174, 2, 55, 221])) [4] = some (0x2, [1]) := by
  decide
theorem test_witness_W13 : result (exec (.witness 4 0 1 2 3) (cmd [2, 4, 35, 561, 9])) [4] = some (0x2, [0]) := by
  decide

/-- ISPRIME of 221 in a round whose draw is answered `a` (Q1's draws 174, 0, 137). -/
def primeRound (a : Int) : State :=
  { on Params.suggested (.busy (.oracle ⟨221, 2, 55, 1⟩)) [221, 9] with port := .answered 0 220 a, rounds := 3 }

theorem test_isprime_Q1_passes : (next? (exec (.isprime 1 0) (primeRound 174))).map State.phase
    = some (.busy (.oracle ⟨221, 2, 55, 2⟩)) := by decide
theorem test_isprime_Q1_fails : result (exec (.isprime 1 0) (primeRound 137)) [1] = some (0x2, [0]) := by decide

/-- GENKEY's working registers at a stage of K1: `p = 47`, `q = 59`. -/
def key47x59 (stage : KeyStage) : KeyWork := ⟨40, 60, 2, some 47, some 59, stage⟩

/-- K1 at its last move. -/
def keyEnd : State := on Params.suggested (.busy (.keygen (key47x59 (.inverse 2773 2668 12 17)))) [40, 60]

theorem test_genkey_K1 : result (exec (.genkey 8 9 10 0 1) keyEnd) [8, 9, 10] = some (0x2, [17, 157, 2773]) := by
  decide
/-- K1's exponent range is `[13, 2667]`. -/
theorem test_genkey_K1_range : (next? (exec (.genkey 8 9 10 0 1)
      (on Params.suggested (.busy (.keygen (key47x59 (.exponent 2773 2668 12)))) [40, 60]))).map State.port
    = some (.asked 13 2667) := by decide

theorem test_encrypt_C3 : result (exec (.encrypt 3 0 1 2) (cmd [2773, 17, 2773, 5])) [3] = some (0x42, [5]) := by
  decide
theorem test_encrypt_C7 : result (exec (.encrypt 3 0 1 2) (cmd [0, 0, 7])) [3] = some (0x2, [1]) := by decide

theorem test_decrypt_C2 : result (exec (.decrypt 3 0 1 2) (cmd [219, 157, 2773])) [3] = some (0x2, [13]) := by decide
theorem test_decrypt_C13 : result (exec (.decrypt 3 0 1 2) (cmd [3000, 157, 2773])) [3] = some (0x2, [396]) := by
  decide

/-- A state whose table is that of `e = 17`, `n = 2773`, `r = 16` (section 2.11). -/
def withTable (vs : List Int) : State :=
  { cmd vs with tablen := 16, table := [(0, 0), (1, 1), (2, 741), (3, 1553), (4, 27), (5, 508), (6, 2751), (7, 1698),
    (8, 596), (9, 2072), (10, 2073), (11, 1725), (12, 336), (13, 219), (14, 2049), (15, 1392)] }

/-- T13's operands with `r = 4`: the table's first entries, and TABLEN. -/
theorem test_buildtab : (next? (exec (.buildtab 0 1 3) (cmd [17, 2773, 0, 4]))).map
      (fun t => (t.table, t.tablen, t.statusWord))
    = some ([(0, 0), (1, 1), (2, 741), (3, 1553)], 4, 2) := by decide
theorem test_buildtab_T11 : (next? (exec (.buildtab 0 1 3) (withTable [17, 2773, 0, 0]))).map
    (fun t => (t.tablen, t.statusWord)) = some (16, 0x504) := by decide

theorem test_findmsg_T7 : result (exec (.findmsg 4 1 2 3) (withTable [17, 2773, 647, 16])) [4]
    = some (0x2, [143]) := by decide +kernel
theorem test_findmsg_T8 : result (exec (.findmsg 4 1 2 3) (withTable [17, 2773, 647, 12, 36])) [4]
    = some (0x22, [36]) := by decide +kernel

/-- B13, from BREAK's first move on: the table is there and the search is to come. -/
def searching : State := { withTable [17, 2773, 729, 4] with phase := .busy (.search 2773 729 16) }

theorem test_break_B13_table : (next? (exec (.breakmsg 4 0 1 2 3) (cmd [17, 2773, 729, 4]))) = some searching := by
  decide +kernel
theorem test_break_B13_search : result (exec (.breakmsg 4 0 1 2 3) searching) [4] = some (0x2, [16]) := by
  decide +kernel

theorem test_tabrd_T2 : result (exec (.tabrd 5 6) (withTable [0, 0, 0, 0, 0, 0, 13])) [5] = some (0x2, [219]) := by
  decide
theorem test_tabrd_T4 : result (exec (.tabrd 5 6) (withTable [0, 0, 0, 0, 0, 0, 16])) [5] = some (0x604, [0]) := by
  decide

/-! ## Reset, status, host access (section 2.12) -/

theorem test_reset_H1 : [0x04, 0x0C, 0x10, 0x14, 0x18, 0x08, 0x00].map State.reset.controlRead
    = [0, 0x40, 0x10000, 0, 0, 0, 0] := by decide
theorem test_rounds_H4 : (State.reset.controlWrite 0x0C 0x12345).controlRead 0x0C = 0x2345 := by decide
theorem test_param_H5 : answerTo (on ⟨2, 22⟩ .idle []) (.readReg 0x1C) = some (.word 0x00020016) := by decide
theorem test_param_H6 : answerTo State.reset (.readReg 0x1C) = some (.word 0x16) := by decide
/-- H7: the sign word and two limbs of X1 at 0x100C, 0x1010, 0x1014. -/
theorem test_window_H7 : windowSlot ⟨2, 22⟩ 0x100C = some (1, 0) ∧ windowSlot ⟨2, 22⟩ 0x1014 = some (1, 2) ∧
    ((((on ⟨2, 22⟩ .idle []).windowWrite 1 0 1).windowWrite 1 1 2).windowWrite 1 2 1).reg 1 = -4294967298 := by
  decide
/-- H8: no negative zero. -/
theorem test_window_H8 : ((on ⟨2, 22⟩ .idle []).windowWrite 2 0 1).windowRead 2 0 = 0 ∧
    ((on ⟨2, 22⟩ .idle []).windowWrite 2 0 1).reg 2 = 0 := by decide
/-- H9: writes are dropped while FAULTED, and reads answer. -/
theorem test_faulted_H9 : answerTo (on Params.suggested (.faulted .modulus) [7]) (.readX 0) = some (.integer 7) ∧
    answerTo (on Params.suggested (.faulted .modulus) [7]) (.readReg 4) = some (.word 0x304) ∧
    (on Params.suggested (.faulted .modulus) [7]).controlWrite 0x0C 1 = on Params.suggested (.faulted .modulus) [7] := by
  decide
/-- H12: a soft reset ignores the other bits of its write. -/
theorem test_soft_reset_H12 : State.reset.controlWrite 0x08 0x3 = State.reset := by decide
/-- R26, R61: IE is written in every phase. -/
theorem test_ctrl_ie : ((cmd []).controlWrite 0x08 1).ie = true ∧
    (((State.reset.raise .rng).controlWrite 0x08 1).controlWrite 0x08 4).ie = false ∧
    ((cmd []).controlWrite 0x08 1).controlRead 0x08 = 1 := by decide
/-- P6: a reserved word raises F_OPCODE and stands in LASTCMD. -/
theorem test_reserved_P6 : (State.reset.controlWrite 0 0x100).statusWord = 0x104 ∧
    (State.reset.controlWrite 0 0x100).lastcmd = 0x100 := by decide
/-- R81, R83, log 4: the next step runs the command placed: MODPOW of zeros faults F_MODULUS, as in P6. -/
theorem test_placed_command : result (step (State.reset.withFetchWord 32 0x00210411)) [4] = some (0x304, [0]) := by
  decide

/-! ## Witnesses: for each obligation with hypotheses, data that meet all of them together -/

/-- `s` with `e` the next event. -/
def before (e : Event) (s : State) : State := { s with pending := [e] }

/-- A host write of `w` to offset `off` comes next. -/
def writing (off : Nat) (w : Word) (s : State) : State := before (.host (.writeReg off w)) s

theorem witness_DecodeAndEncodeAgree : (Instr.xgcd 15 14 0 15 0).wellFormed = true ∧
    decodeWord 0x0EF00F13 = .error .mustBeZero ∧ decodeWord 0x0E0F0F13 = .ok (.xgcd 15 14 0 0 15) := by decide

theorem witness_StepRunsDecodedCommand :
    ((before .engine { primeRound 174 with lastcmd := 0x121 }).phase = .busy (.oracle ⟨221, 2, 55, 1⟩) ∧
      (before .engine { primeRound 174 with lastcmd := 0x121 }).pending = .engine :: [] ∧
      decodeWord (before .engine { primeRound 174 with lastcmd := 0x121 }).lastcmd = .ok (.isprime 1 0)) ∧
    decodeTableWord 32 0x00210310 = some (.modmul 3 0 1 2) := by decide

theorem witness_IdleCommandWrite :
    (writing 0 0x00210310 State.reset).phase = .idle ∧
    (writing 0 0x00210310 State.reset).pending = .host (.writeReg 0 0x00210310) :: [] ∧
    decodeWord 0x00210310 = .ok (.modmul 3 0 1 2) ∧
    (writing 0 0x100 State.reset).pending = .host (.writeReg 0 0x100) :: [] ∧
    decodeWord 0x100 = .error .mustBeZero := by decide

theorem witness_CommandDroppedUnlessIdle :
    ((writing 0 0 (cmd [])).phase ≠ .idle ∧ (writing 0 0 (cmd [])).pending = .host (.writeReg 0 0) :: []) ∧
    (writing 0 0 (State.reset.raise .table)).phase ≠ .idle ∧
    (writing 0 0 (State.reset.raise .table)).pending = .host (.writeReg 0 0) :: [] := by decide

/-- The smallest modulus, and `W = 32` at its largest. -/
theorem witness_ModmulWritesProduct :
    (0 < (cmd [0, 5, 1]).reg 2 ∧ 0 ≤ (cmd [0, 5, 1]).reg 0 ∧ 0 ≤ (cmd [0, 5, 1]).reg 1 ∧
      fits (cmd [0, 5, 1]).params ((cmd [0, 5, 1]).reg 2) = true) ∧
    fits ⟨1, 0⟩ ((on ⟨1, 0⟩ (.busy .start) [7, 8, 4294967295]).reg 2) = true := by decide

theorem witness_ModpowWritesPower :
    0 < (cmd [0, 0, 1]).reg 2 ∧ 0 ≤ (cmd [0, 0, 1]).reg 0 ∧ 0 ≤ (cmd [0, 0, 1]).reg 1 ∧
      fits (cmd [0, 0, 1]).params ((cmd [0, 0, 1]).reg 2) = true := by decide

/-- On `W = 32`, at both ends of its range. -/
def wide32 : State := on ⟨1, 0⟩ (.busy .start) [4294967295, -4294967295]

theorem witness_GcdWritesGcd : fits wide32.params (wide32.reg 0) = true ∧ fits wide32.params (wide32.reg 1) = true := by
  decide

theorem witness_XgcdWritesBezoutPair : distinctDestinations 0 1 2 = true ∧
    fits wide32.params (wide32.reg 0) = true ∧ fits wide32.params (wide32.reg 1) = true := by decide

theorem witness_XgcdPairProperties : xgcd (-7) 0 = (-1, 0, 7) ∧ xgcd 0 (-5) = (0, -1, 5) ∧
    xgcd (-240) 46 = (9, 47, 2) ∧ xgcd 240 (-46) = (-9, -47, 2) ∧ (240 : Int) ≠ 0 ∧ (46 : Int) ≠ 0 := by decide

theorem witness_ModinvWritesInverseOrReports :
    (0 < (cmd [-3, 7]).reg 1 ∧ fits (cmd [-3, 7]).params ((cmd [-3, 7]).reg 1) = true ∧
      Int.gcd ((cmd [-3, 7]).reg 0) ((cmd [-3, 7]).reg 1) = 1) ∧
    (0 < (cmd [0, 1]).reg 1 ∧ Int.gcd ((cmd [0, 1]).reg 0) ((cmd [0, 1]).reg 1) = 1) ∧
    0 < (cmd [6, 9]).reg 1 ∧ fits (cmd [6, 9]).params ((cmd [6, 9]).reg 1) = true ∧
      Int.gcd ((cmd [6, 9]).reg 0) ((cmd [6, 9]).reg 1) ≠ 1 := by decide

theorem witness_ModinvIsTheUniqueInverse : (0 : Int) < 1 ∧ Int.gcd 5 1 = 1 ∧ (0 : Int) < 9 ∧ Int.gcd 6 9 ≠ 1 ∧
    Int.gcd (-3) 7 = 1 ∧ modinv (-3) 7 = some 2 ∧ (2 : Int) ≤ 2 ∧ modinv (2 - 1) 2 = some 1 := by decide

/-- W16: modulus 1. -/
theorem witness_WitnessWritesVerdict : 0 < (cmd [3, 0, 0, 1]).reg 3 ∧ 0 ≤ (cmd [3, 0, 0, 1]).reg 0 ∧
    0 ≤ (cmd [3, 0, 0, 1]).reg 1 ∧ 0 ≤ (cmd [3, 0, 0, 1]).reg 2 := by decide

theorem witness_PrimesPassEveryWitness : 3 ≤ 3 ∧ Nat.Prime 3 ∧ 3 ≤ 4 ∧ 1 ≤ 2 ∧ 2 ≤ 3 - 1 := by norm_num

theorem witness_DecompositionOfCandidate : (2 ≤ 2) ∧ tz (2 - 1) = 0 ∧ tz (3 - 1) = 1 := by decide

theorem witness_IsprimeSmallNumbers :
    ((cmd [2]).phase = .busy .start ∧ (cmd [2]).rounds ≠ 0 ∧ (cmd [2]).reg 0 ≤ 2) ∧ (cmd [1]).reg 0 ≤ 2 ∧
    (cmd [-7]).reg 0 ≤ 2 := by decide

theorem witness_IsprimeCompletes :
    ((on Params.suggested (.busy (.oracle ⟨221, 2, 55, 65⟩)) [221]).phase = .busy (.oracle ⟨221, 2, 55, 65⟩) ∧
      (on Params.suggested (.busy (.oracle ⟨221, 2, 55, 65⟩)) [221]).rounds.toNat < 65) ∧
    (primeRound 137).phase = .busy (.oracle ⟨221, 2, 55, 1⟩) ∧ 1 ≤ (primeRound 137).rounds.toNat ∧
      (primeRound 137).port = .answered 0 220 137 ∧ (0 : Int) ≤ 137 ∧ (137 : Int) ≤ 220 ∧ (137 : Int) ≠ 0 ∧
      witnessTest 137 2 55 221 = false := by decide

theorem witness_IsprimeGoesOn :
    ((cmd [3]).phase = .busy .start ∧ (cmd [3]).rounds ≠ 0 ∧ 3 ≤ (cmd [3]).reg 0) ∧
    (primeRound 174).phase = .busy (.oracle ⟨221, 2, 55, 1⟩) ∧ 1 ≤ (primeRound 174).rounds.toNat ∧
      ({ primeRound 174 with port := .free } : State).port = .free ∧
      ({ primeRound 174 with port := .asked 0 220 } : State).port = .asked 0 220 ∧
      (primeRound 0).port = .answered 0 220 0 ∧ (primeRound 174).port = .answered 0 220 174 ∧ (174 : Int) ≠ 0 ∧
      witnessTest 174 2 55 221 = true := by decide

theorem witness_IsprimeAcceptsEveryPrime :
    ∃ (s t : State) (o : Oracle), s.phase = .busy (.oracle o) ∧ OracleOk o ∧ o.n.Prime ∧
      (∀ range, s.port.range = some range → range = (0, (o.n : Int) - 1)) ∧ exec (.isprime 1 0) s = .next t :=
  ⟨{ on Params.suggested (.busy (.oracle ⟨13, 2, 3, 64⟩)) [13] with port := .answered 0 12 12 }, _, ⟨13, 2, 3, 64⟩, rfl,
    ⟨by decide, by decide, by decide⟩, by norm_num, fun _ h => (Option.some.inj h).symm, rfl⟩

theorem witness_ZeroRoundsFault :
    ((Instr.isprime 1 0).draws = true ∧ ({ cmd [13] with rounds := 0 } : State).phase = .busy .start ∧
      ({ cmd [13] with rounds := 0 } : State).rounds = 0) ∧ (Instr.genkey 8 9 10 0 1).draws = true := by decide

/-- GENKEY over `[40, 60]` at a stage with neither side valid, a port and KGLIMIT 1. -/
def keyStage (stage : KeyStage) (port : Port) : State :=
  { on Params.suggested (.busy (.keygen ⟨40, 60, 1, none, none, stage⟩)) [40, 60] with port := port, kglimit := 1 }

/-- GENKEY about to draw a candidate for `q`. -/
def keyAtCandidate : KeyWork := { key47x59 (.candidate .q) with q := none }

/-- Each of the three draws, with answers just outside the range on either side; and an answer nobody asked for. -/
theorem witness_DrawAnswersAreChecked :
    ((Instr.isprime 1 0).draws = true ∧ workOf (.isprime 1 0) (.oracle ⟨221, 2, 55, 1⟩) = true ∧
      (primeRound 221).phase = .busy (.oracle ⟨221, 2, 55, 1⟩) ∧
      drawRange (primeRound 221).rounds.toNat (.oracle ⟨221, 2, 55, 1⟩) = some (0, 220) ∧
      (primeRound 221).port = .answered 0 220 221 ∧ ((221 : Int) < 0 ∨ (220 : Int) < 221)) ∧
    ((Instr.genkey 8 9 10 0 1).draws = true ∧ workOf (.genkey 8 9 10 0 1) (.keygen keyAtCandidate) = true ∧
      (on Params.suggested (.busy (.keygen keyAtCandidate)) [40, 60]).phase = .busy (.keygen keyAtCandidate) ∧
      drawRange 64 (.keygen keyAtCandidate) = some (40, 60) ∧
      ({ on Params.suggested (.busy (.keygen keyAtCandidate)) [40, 60] with port := .answered 40 60 39 } : State).port
        = .answered 40 60 39 ∧
      ((39 : Int) < 40 ∨ (60 : Int) < 39)) ∧
    drawRange 64 (.keygen (key47x59 (.exponent 2773 2668 12))) = some (13, 2667) ∧
    ((before (.answer 47) (keyStage (.candidate .p) (.asked 40 60))).pending = .answer 47 :: [] ∧
      (before (.answer 47) (keyStage (.candidate .p) (.asked 40 60))).port = .asked 40 60) ∧
    (before (.answer 5) State.reset).pending = .answer 5 :: [] ∧
    (∀ lo hi, (before (.answer 5) State.reset).port ≠ .asked lo hi) :=
  ⟨by decide, by decide, by decide, ⟨rfl, rfl⟩, rfl, fun _ _ => Port.noConfusion⟩

/-- K1's working registers are in order. -/
theorem key_ok : KeyOk (key47x59 (.inverse 2773 2668 12 17)) := by
  refine ⟨by decide, by decide, fun σ v h => ?_, ⟨47, 59, by decide⟩, by decide, by decide, by decide⟩
  cases σ <;> cases h <;> decide

theorem witness_GenkeyDeliversAKey : distinctDestinations 8 9 10 = true ∧
    keyEnd.phase = .busy (.keygen (key47x59 (.inverse 2773 2668 12 17))) ∧
    (key47x59 (.inverse 2773 2668 12 17)).stage = .inverse 2773 2668 12 17 ∧
    KeyOk (key47x59 (.inverse 2773 2668 12 17)) ∧ fits keyEnd.params 2773 = true :=
  ⟨by decide, rfl, rfl, key_ok, by decide⟩

theorem witness_GenkeySamplesCandidates :
    ((cmd [40, 40]).phase = .busy .start ∧ (cmd [40, 40]).rounds ≠ 0 ∧ 0 ≤ (cmd [40, 40]).reg 0 ∧
      (cmd [40, 40]).reg 0 ≤ (cmd [40, 40]).reg 1) ∧
    (keyStage (.candidate .p) (.answered 40 60 47)).phase
        = .busy (.keygen ⟨40, 60, 1, none, none, .candidate .p⟩) ∧
    (∀ v, (fun v => (⟨40, 60, 1, some v, none, .side .q⟩ : KeyWork)) v
        = { (⟨40, 60, 1, none, none, .candidate .p⟩ : KeyWork) with p := some v, stage := .side .q }) ∧
    (key47x59 (.side .q)).accepted .q ≠ none ∧
    (keyStage (.candidate .p) (.answered 40 60 47)).port = .answered 40 60 47 ∧ (40 : Int) ≤ 47 ∧ (47 : Int) ≤ 60 ∧
    (3 : Int) ≤ 47 ∧
    (keyStage (.candidate .p) (.answered 0 2 1)).port = .answered 0 2 1 ∧
    (keyStage (.candidate .p) (.answered 0 2 2)).port = .answered 0 2 2 ∧
    (keyStage (.candidate .q) .free).port = .free ∧
    (keyStage (.candidate .q) (.asked 40 60)).port = .asked 40 60 ∧
    (keyStage (.test .p ⟨47, 1, 23, 64⟩) (.asked 0 46)).port = .asked 0 46 ∧
    (keyStage (.test .p ⟨47, 1, 23, 64⟩) .free).rounds.toNat = 64 ∧
    (keyStage (.test .p ⟨47, 1, 23, 65⟩) .free).rounds.toNat < 65 ∧
    (keyStage (.test .p ⟨47, 1, 23, 64⟩) (.answered 0 46 2)).port = .answered 0 46 2 ∧
    witnessTest 2 1 23 47 = true ∧ witnessTest 2 4 3 49 = false :=
  ⟨by decide, rfl, fun _ => rfl, by decide, rfl, by decide, by decide, by decide, rfl, rfl, rfl, rfl, rfl,
    by decide, by decide, rfl, by decide, by decide⟩

/-- K1 at its exponent draw, answered `e`. -/
def keyDrawing (e : Int) : State :=
  { on Params.suggested (.busy (.keygen (key47x59 (.exponent 2773 2668 12)))) [40, 60] with
    port := .answered 13 2667 e }

theorem witness_GenkeySamplesExponent :
    ((keyStage .judge .free).phase = .busy (.keygen ⟨40, 60, 1, none, none, .judge⟩) ∧
      (⟨40, 60, 1, none, none, .judge⟩ : KeyWork).q = none) ∧
    ((on Params.suggested (.busy (.keygen (key47x59 .judge))) []).phase = .busy (.keygen (key47x59 .judge)) ∧
      (key47x59 .judge).p = some 47 ∧ (key47x59 .judge).q = some 59 ∧ (47 : Int) ≠ 59 ∧
      (clog2 (47 * 59 : Int).toNat : Int) + 1 ≤ (47 - 1) * (59 - 1) - 1) ∧
    (keyDrawing 17).phase = .busy (.keygen (key47x59 (.exponent 2773 2668 12))) ∧
    ({ keyDrawing 17 with port := .free } : State).port = .free ∧
    ({ keyDrawing 17 with port := .asked 13 2667 } : State).port = .asked 13 2667 ∧
    (keyDrawing 17).port = .answered 13 2667 17 ∧ (13 : Int) ≤ 17 ∧ (17 : Int) ≤ 2667 ∧ Int.gcd 17 2668 = 1 ∧
    (keyDrawing 14).port = .answered 13 2667 14 ∧ (13 : Int) ≤ 14 ∧ Int.gcd 14 2668 ≠ 1 := by decide

/-- K7: the limit 1 is reached; with KGLIMIT 0 it never is. -/
theorem witness_GenkeyAttemptLimit :
    ((keyStage (.side .q) .free).phase = .busy (.keygen ⟨40, 60, 1, none, none, .side .q⟩) ∧
      (⟨40, 60, 1, none, none, .side .q⟩ : KeyWork).accepted .q = none ∧
      (keyStage (.side .q) .free).kglimit ≠ 0 ∧ 1 = (keyStage (.side .q) .free).kglimit.toNat) ∧
    ({ keyStage (.side .q) .free with kglimit := 0 } : State).kglimit = 0 ∧
    (∃ t, exec (.genkey 8 9 10 0 1) { keyEnd with kglimit := 0 } = .next t ∧ t.phase = .idle) :=
  ⟨by decide, rfl, _, rfl, by decide⟩

/-- K5. -/
theorem witness_GenkeyEmptyInterval :
    ((on Params.suggested (.busy (.keygen ⟨2, 3, 2, some 2, some 3, .judge⟩)) [2, 3]).phase
        = .busy (.keygen ⟨2, 3, 2, some 2, some 3, .judge⟩) ∧
      (2 : Int) ≠ 3 ∧ (2 - 1 : Int) * (3 - 1) - 1 < (clog2 (2 * 3 : Int).toNat : Int) + 1) ∧
    Nat.Prime 2 ∧ Nat.Prime 5 ∧ 2 < 5 :=
  ⟨by decide, by norm_num, by norm_num, by decide⟩

/-- K4. -/
theorem witness_GenkeyEqualCandidates :
    (on Params.suggested (.busy (.keygen ⟨47, 47, 2, some 47, some 47, .judge⟩)) [47, 47]).phase
      = .busy (.keygen ⟨47, 47, 2, some 47, some 47, .judge⟩) := rfl

/-- H13: GENKEY's working registers at its last move on `W = 32`. -/
def keyTooWide : KeyWork :=
  ⟨65537, 65539, 2, some 65537, some 65539, .inverse 4295229443 4295098368 33 35⟩

theorem key_too_wide_ok : KeyOk keyTooWide := by
  refine ⟨by decide, by decide, fun σ v h => ?_, ⟨65537, 65539, by decide⟩, by decide, by decide, by decide⟩
  cases σ <;> cases h <;> decide

theorem witness_CapacityFaults :
    ((on ⟨1, 22⟩ (.busy (.keygen keyTooWide)) [65537, 65539]).phase = .busy (.keygen keyTooWide) ∧
      keyTooWide.stage = .inverse 4295229443 4295098368 33 35 ∧ KeyOk keyTooWide ∧ fits ⟨1, 22⟩ 4295229443 = false) ∧
    (State.reset.raise .capacity).params.limbs = 0 ∧
    ∃ t, exec (.isprime 1 0) { State.reset with rounds := 1, phase := .faulted .capacity } = .next t :=
  ⟨⟨rfl, rfl, key_too_wide_ok, by decide⟩, rfl, _, rfl⟩

theorem witness_EncryptWritesCiphertextOrRejects :
    (0 < (cmd [0, 5, 1]).reg 2 ∧ 0 ≤ (cmd [0, 5, 1]).reg 1 ∧
      fits (cmd [0, 5, 1]).params ((cmd [0, 5, 1]).reg 2) = true ∧
      0 ≤ (cmd [0, 5, 1]).reg 0 ∧ (cmd [0, 5, 1]).reg 0 < (cmd [0, 5, 1]).reg 2) ∧
    ((cmd [1, 5, 1]).reg 2 ≤ (cmd [1, 5, 1]).reg 0) ∧ (cmd [-1, 17, 2773]).reg 0 < 0 := by decide

theorem witness_DecryptWritesPlaintext :
    0 < (cmd [3000, 157, 2773]).reg 2 ∧ 0 ≤ (cmd [3000, 157, 2773]).reg 1 ∧ 0 ≤ (cmd [3000, 157, 2773]).reg 0 ∧
      fits (cmd [3000, 157, 2773]).params ((cmd [3000, 157, 2773]).reg 2) = true := by decide

/-- The key `(17, 157, 2773)` in X1, X2, X3 and the largest message in X0. -/
def keyed : State := cmd [2772, 17, 157, 2773]

theorem witness_DecryptUndoesEncrypt :
    Nat.Prime 47 ∧ Nat.Prime 59 ∧ (47 : Nat) ≠ 59 ∧ keyed.reg 3 = ((47 : Nat) : Int) * (59 : Nat) ∧ 0 ≤ keyed.reg 1 ∧
      0 ≤ keyed.reg 2 ∧ keyed.reg 1 * keyed.reg 2 % ((((47 : Nat) : Int) - 1) * (((59 : Nat) : Int) - 1)) = 1 ∧
      0 ≤ keyed.reg 0 ∧ keyed.reg 0 < keyed.reg 3 ∧ fits keyed.params (keyed.reg 3) = true ∧ (4 : Reg) ≠ 2 ∧
      (4 : Reg) ≠ 3 :=
  ⟨by norm_num, by norm_num, by decide⟩

/-- An instance with four table entries, the commands' operands at its largest width. -/
def small (vs : List Int) : State :=
  { on ⟨0, 2⟩ (.busy .start) vs with tablen := 4, table := [(0, 0), (1, 1), (2, 741), (3, 1553)] }

theorem witness_TableAfterBuilding :
    (0 < (small [17, 2773, 4]).reg 1 ∧ 0 ≤ (small [17, 2773, 4]).reg 0 ∧ 1 ≤ (small [17, 2773, 4]).reg 2 ∧
      (small [17, 2773, 4]).reg 2 ≤ tableSize (small [17, 2773, 4]).params ∧
      fits (small [17, 2773, 4]).params ((small [17, 2773, 4]).reg 1) = true) ∧
    (small [17, 2773, 1553, 2]).phase = .busy .start ∧ 0 < (small [17, 2773, 1553, 2]).reg 1 ∧
      0 ≤ (small [17, 2773, 1553, 2]).reg 2 ∧ 0 ≤ (small [17, 2773, 1553, 2]).reg 3 ∧
      (small [17, 2773, 1553, 2]).reg 3 ≤ (small [17, 2773, 1553, 2]).params.kmax.val ∧
      fits (small [17, 2773, 1553, 2]).params ((small [17, 2773, 1553, 2]).reg 1) = true := by decide

/-- The last valid index. -/
theorem witness_TabrdReadsEntry : 0 ≤ (small [3]).reg 0 ∧ (small [3]).reg 0 < (small [3]).tablen.toNat ∧
    Table.read? (small [3]).table ((small [3]).reg 0).toNat = some 1553 ∧ fits (small [3]).params 1553 = true := by
  decide

/-- `Matches`, as a check that computes. -/
theorem matches_iff (T : Nat → Nat) (n c i j : Nat) :
    Matches T n c i j ↔ (modinv (T i) n).any (fun inv => (T j : Int) == c * inv % n) = true := by
  unfold Matches
  cases modinv (T i) n <;> simp

/-- The first entries of the table of `e = 17`, `n = 2773`. -/
def powers (k : Nat) : Nat := if k = 0 then 0 else k ^ 17 % 2773

/-- `c = 1553` with `r = 4`: the first match is (1, 3). -/
theorem first_match (T : Nat → Nat) (h1 : T 1 = 1) (h2 : T 2 = 741) (h3 : T 3 = 1553) :
    FirstMatch T 2773 1553 4 1 3 := by
  refine ⟨by decide, by decide, by decide, by decide, ?_, ?_⟩
  · rw [matches_iff, h1, h3]
    decide
  · intro i j hi hi' hj hj' hm
    rcases Nat.lt_or_ge 1 i with h | h
    · exact .inl h
    · obtain rfl : i = 1 := by omega
      refine .inr ⟨rfl, ?_⟩
      rw [matches_iff, h1] at hm
      by_contra hlt
      obtain rfl | rfl : j = 1 ∨ j = 2 := by omega
      · rw [h1] at hm; exact absurd hm (by decide)
      · rw [h2] at hm; exact absurd hm (by decide)

/-- With `r = 1` there is no pair at all. -/
theorem no_pair (T : Nat → Nat) : ¬∃ i j, 1 ≤ i ∧ i < 1 ∧ 1 ≤ j ∧ j < 1 ∧ Matches T 2773 1553 i j := by
  rintro ⟨i, j, h1, h2, -⟩
  omega

theorem witness_SearchReturnsFirstMatch : 0 < 2773 ∧ FirstMatch powers 2773 1553 4 1 3 ∧
    ¬∃ i j, 1 ≤ i ∧ i < 1 ∧ 1 ≤ j ∧ j < 1 ∧ Matches powers 2773 1553 i j :=
  ⟨by decide, first_match powers rfl (by decide) (by decide), no_pair powers⟩

theorem witness_FindmsgWritesFirstMatch :
    (0 < (small [2773, 1553, 4]).reg 0 ∧ 0 ≤ (small [2773, 1553, 4]).reg 1 ∧ 1 ≤ (small [2773, 1553, 4]).reg 2 ∧
      (small [2773, 1553, 4]).reg 2 ≤ tableSize (small [2773, 1553, 4]).params ∧
      (small [2773, 1553, 4]).reg 2 ≤ (small [2773, 1553, 4]).tablen.toNat ∧
      fits (small [2773, 1553, 4]).params ((small [2773, 1553, 4]).reg 0) = true) ∧
    FirstMatch (small [2773, 1553, 4]).memRead ((small [2773, 1553, 4]).reg 0).toNat
      ((small [2773, 1553, 4]).reg 1).toNat ((small [2773, 1553, 4]).reg 2).toNat 1 3 ∧
    1 ≤ (small [2773, 1553, 1]).reg 2 ∧
    ¬∃ i j, 1 ≤ i ∧ i < ((small [2773, 1553, 1]).reg 2).toNat ∧ 1 ≤ j ∧ j < ((small [2773, 1553, 1]).reg 2).toNat ∧
      Matches (small [2773, 1553, 1]).memRead ((small [2773, 1553, 1]).reg 0).toNat
        ((small [2773, 1553, 1]).reg 1).toNat i j :=
  ⟨by decide, first_match _ rfl rfl rfl, by decide, no_pair _⟩

theorem witness_BreakWritesFirstMatch :
    ((small [17, 2773, 1553, 2]).phase = .busy .start ∧ 0 < (small [17, 2773, 1553, 2]).reg 1 ∧
      0 ≤ (small [17, 2773, 1553, 2]).reg 0 ∧ 0 ≤ (small [17, 2773, 1553, 2]).reg 2 ∧
      0 ≤ (small [17, 2773, 1553, 2]).reg 3 ∧
      (small [17, 2773, 1553, 2]).reg 3 ≤ (small [17, 2773, 1553, 2]).params.kmax.val ∧
      fits (small [17, 2773, 1553, 2]).params ((small [17, 2773, 1553, 2]).reg 1) = true) ∧
    (∀ k, powers k = if k = 0 then 0
      else k ^ ((small [17, 2773, 1553, 2]).reg 0).toNat % ((small [17, 2773, 1553, 2]).reg 1).toNat) ∧
    FirstMatch powers ((small [17, 2773, 1553, 2]).reg 1).toNat ((small [17, 2773, 1553, 2]).reg 2).toNat
      (2 ^ ((small [17, 2773, 1553, 2]).reg 3).toNat) 1 3 ∧
    0 ≤ (small [17, 2773, 1553, 0]).reg 3 ∧
    ¬∃ i j, 1 ≤ i ∧ i < 2 ^ ((small [17, 2773, 1553, 0]).reg 3).toNat ∧ 1 ≤ j ∧
      j < 2 ^ ((small [17, 2773, 1553, 0]).reg 3).toNat ∧
      Matches powers ((small [17, 2773, 1553, 0]).reg 1).toNat ((small [17, 2773, 1553, 0]).reg 2).toNat i j :=
  ⟨by decide, fun _ => rfl, first_match powers rfl (by decide) (by decide), by decide, no_pair powers⟩

/-- The largest message below `2^bit_width`. -/
theorem witness_BreakRecoversPlaintext :
    Nat.Prime 47 ∧ Nat.Prime 59 ∧ (47 : Nat) ≠ 59 ∧ (small [17, 2773, 1553, 2]).phase = .busy .start ∧
      (small [17, 2773, 1553, 2]).reg 1 = ((47 : Nat) : Int) * (59 : Nat) ∧ 0 ≤ (small [17, 2773, 1553, 2]).reg 0 ∧
      Int.gcd ((small [17, 2773, 1553, 2]).reg 0) ((((47 : Nat) : Int) - 1) * (((59 : Nat) : Int) - 1)) = 1 ∧
      3 < 47 * 59 ∧ (small [17, 2773, 1553, 2]).reg 2
        = ((3 : Nat) : Int) ^ ((small [17, 2773, 1553, 2]).reg 0).toNat % (small [17, 2773, 1553, 2]).reg 1 ∧
      0 ≤ (small [17, 2773, 1553, 2]).reg 3 ∧
      (small [17, 2773, 1553, 2]).reg 3 ≤ (small [17, 2773, 1553, 2]).params.kmax.val ∧
      fits (small [17, 2773, 1553, 2]).params ((small [17, 2773, 1553, 2]).reg 1) = true ∧ 1 ≤ 3 ∧
      3 < 2 ^ ((small [17, 2773, 1553, 2]).reg 3).toNat :=
  ⟨by norm_num, by norm_num, by decide⟩

/-- L13 (modulus 0) and L11 (modulus -7). -/
theorem witness_ModulusIsChecked :
    ((Instr.modmul 3 0 1 2).modulus = some 2 ∧ (cmd [-5, 5, 0]).phase = .busy .start ∧ (cmd [-5, 5, 0]).reg 2 ≤ 0) ∧
    (cmd [5, 5, -7]).reg 2 ≤ 0 := by decide

theorem witness_OperandsAreChecked :
    ((cmd [-5, 5, 7]).phase = .busy .start ∧ (cmd [-5, 5, 7]).rounds ≠ 0 ∧
      (∀ m, (Instr.modmul 3 0 1 2).modulus = some m → 0 < (cmd [-5, 5, 7]).reg m) ∧
      0 ∈ (Instr.modmul 3 0 1 2).nonNegative ∧ (cmd [-5, 5, 7]).reg 0 < 0) ∧
    (cmd [60, 40]).phase = .busy .start ∧ (cmd [60, 40]).rounds ≠ 0 ∧ (cmd [60, 40]).reg 1 < (cmd [60, 40]).reg 0 := by
  decide

/-- Widths 0, one above the table's size, and TABLEN + 1; bit widths -1 and KMAX + 1; indices -1 and TABLEN. -/
theorem witness_WidthsAndIndicesAreChecked :
    (0 < (small [17, 2773, 0]).reg 1 ∧ 0 ≤ (small [17, 2773, 0]).reg 0 ∧ (small [17, 2773, 0]).reg 2 < 1 ∧
      (tableSize (small [17, 2773, 5]).params : Int) < (small [17, 2773, 5]).reg 2) ∧
    (0 < (withTable [2773, 647, 17]).reg 0 ∧ 0 ≤ (withTable [2773, 647, 17]).reg 1 ∧
      1 ≤ (withTable [2773, 647, 17]).reg 2 ∧
      (withTable [2773, 647, 17]).reg 2 ≤ tableSize (withTable [2773, 647, 17]).params ∧
      ((withTable [2773, 647, 17]).tablen.toNat : Int) < (withTable [2773, 647, 17]).reg 2 ∧
      (withTable [2773, 647, 0]).reg 2 < 1) ∧
    ((small [17, 2773, 219, -1]).phase = .busy .start ∧ 0 < (small [17, 2773, 219, -1]).reg 1 ∧
      0 ≤ (small [17, 2773, 219, -1]).reg 0 ∧ 0 ≤ (small [17, 2773, 219, -1]).reg 2 ∧
      (small [17, 2773, 219, -1]).reg 3 < 0 ∧
      ((small [17, 2773, 219, 3]).params.kmax.val : Int) < (small [17, 2773, 219, 3]).reg 3) ∧
    (small [-1]).reg 0 < 0 ∧ ((small [4]).tablen.toNat : Int) ≤ (small [4]).reg 0 := by decide

/-- BREAK on four table entries, its search to come. -/
def smallSearch : State := { small [17, 2773, 1553, 2] with phase := .busy (.search 2773 1553 4), lastcmd := 0x03210452 }

/-- The invariant holds there. -/
theorem inv_smallSearch : StateInv smallSearch where
  regsFit := by decide
  tableCanonical := rfl
  entriesFit := fun k v h => by
    refine ⟨?_, rfl⟩
    show k < 4
    by_contra hk
    have : Table.read? smallSearch.table k = none := by
      show Table.read? [(0, 0), (1, 1), (2, 741), (3, 1553)] k = none
      simp only [Table.read?]
      rw [if_neg (by omega), if_neg (by omega), if_neg (by omega), if_neg (by omega)]
    rw [this] at h
    cases h
  tablenBound := by decide
  tableValid := by decide
  doneIdle := fun h => nomatch h
  outcomeIdle := fun _ => rfl
  busyLegal := fun w h => by
    cases h
    exact ⟨⟨by decide, by decide, by decide, by decide⟩, .breakmsg 4 0 1 2 3, by decide⟩
  portDraws := fun _ h => nomatch h

/-- A move that faults, a move after which the engine is BUSY, and BREAK's search under the invariant. -/
theorem witness_FaultingCommandWritesNothing :
    (∃ t, exec (.modmul 3 0 1 2) (cmd [5, 5, 0]) = .next t ∧ t.phase = .faulted .modulus) ∧
    (∃ t, exec (.breakmsg 4 0 1 2 3) (small [17, 2773, 1553, 2]) = .next t ∧ t.phase = .busy (.search 2773 1553 4)) ∧
    StateInv smallSearch ∧ smallSearch.phase = .busy (.search 2773 1553 4) :=
  ⟨⟨_, rfl, rfl⟩, ⟨_, rfl, by decide⟩, inv_smallSearch, rfl⟩

theorem witness_OtherOutcomesWriteNoRegister :
    (∃ t, exec (.modinv 2 0 1) (cmd [6, 9, 77]) = .next t ∧ t.outcome ≠ .ok) ∧
    ∃ t, exec (.isprime 1 0) (cmd [13]) = .next t ∧ t.phase = .busy (.oracle ⟨13, 2, 3, 1⟩) :=
  ⟨⟨_, rfl, by decide⟩, _, rfl, by decide⟩

theorem witness_OnlyDestinationsChange : ∃ t, exec (.xgcd 4 5 6 0 1) (cmd [-240, 46]) = .next t := ⟨_, rfl⟩

theorem witness_ControlRegistersAreKept : ∃ t, exec (.encrypt 3 0 1 2) (cmd [13, 17, 2773]) = .next t := ⟨_, rfl⟩

/-- The first index past the table written, for both commands; and BREAK's search. -/
theorem witness_TableIsKept :
    ((Instr.findmsg 4 1 2 3).writesTable = false ∧
      ∃ t, exec (.findmsg 4 1 2 3) (withTable [17, 2773, 647, 12]) = .next t) ∧
    (∃ t, exec (.buildtab 0 1 2) (small [17, 2773, 3]) = .next t ∧ (small [17, 2773, 3]).reg 2 ≤ (3 : Nat)) ∧
    (∃ t, exec (.breakmsg 4 0 1 2 3) (small [17, 2773, 1553, 1]) = .next t ∧
      2 ^ ((small [17, 2773, 1553, 1]).reg 3).toNat ≤ 2) ∧
    searching.phase = .busy (.search 2773 729 16) ∧ ∃ t, exec (.breakmsg 4 0 1 2 3) searching = .next t :=
  ⟨⟨rfl, _, rfl⟩, ⟨_, rfl, by decide⟩, ⟨_, rfl, by decide⟩, rfl, _, rfl⟩

theorem witness_ResetsRestoreTheResetState :
    (before (.host .hardReset) (cmd [7])).pending = .host .hardReset :: [] ∧
    (writing 0x08 0x3 (cmd [7])).pending = .host (.writeReg 0x08 0x3) :: [] ∧
    (0x3 : Word).getLsbD 1 = true := by decide

/-- The invariant holds at reset. -/
theorem inv_reset : StateInv State.reset where
  regsFit := by decide
  tableCanonical := rfl
  entriesFit := fun _ _ h => nomatch h
  tablenBound := by decide
  tableValid := fun k h => absurd h (by have : State.reset.tablen.toNat = 0 := rfl; omega)
  doneIdle := fun h => nomatch h
  outcomeIdle := fun h => absurd rfl h
  busyLegal := fun _ h => nomatch h
  portDraws := fun _ h => nomatch h

theorem witness_AtMostOneStatusBit : StateInv State.reset := inv_reset

/-- The largest magnitude of `W = 32`, while IDLE and while BUSY; reads in both. -/
theorem witness_HostReadsAndWritesRegisters :
    ((before (.host (.writeX 3 (-4294967295))) (on ⟨1, 0⟩ .idle [])).pending
        = .host (.writeX 3 (-4294967295)) :: [] ∧ fits ⟨1, 0⟩ (-4294967295) = true ∧
      (on ⟨1, 0⟩ .idle []).phase = .idle ∧ wide32.phase ≠ .idle) ∧
    (before (.host (.readX 3)) (on ⟨1, 0⟩ .idle [])).pending = .host (.readX 3) :: [] ∧
    (on ⟨1, 0⟩ .idle []).busy = false ∧ (on ⟨1, 0⟩ (.faulted .table) []).busy = false ∧ wide32.busy = true ∧
    (before (.host (.readReg 0x1C)) wide32).pending = .host (.readReg 0x1C) :: [] ∧ 0x1C % 4 = 0 ∧ 0x1C < 0x1000 ∧
    (before (.host (.readReg 0xFFC)) wide32).pending = .host (.readReg 0xFFC) :: [] ∧ 0xFFC % 4 = 0 ∧
    0xFFC < 0x1000 ∧ 0x20 ≤ 0xFFC := by decide

theorem witness_ConfigurationWrites :
    (writing 0x0C 0x12345 State.reset).pending = .host (.writeReg 0x0C 0x12345) :: [] ∧ State.reset.phase = .idle ∧
    (writing 0x10 0xFFFFFFFF State.reset).pending = .host (.writeReg 0x10 0xFFFFFFFF) :: [] ∧
    (writing 0x04 0x2 State.reset).pending = .host (.writeReg 0x04 0x2) :: [] ∧ (0x2 : Word).getLsbD 1 = true ∧
    (0x1 : Word).getLsbD 1 = false ∧ (cmd []).phase ≠ .idle ∧
    (writing 0x08 0x1 (cmd [])).pending = .host (.writeReg 0x08 0x1) :: [] ∧
    (writing 0x14 5 State.reset).pending = .host (.writeReg 0x14 5) :: [] ∧ 0x14 % 4 = 0 ∧ 0x14 ≤ 0x14 ∧
    (writing 0xFFC 5 State.reset).pending = .host (.writeReg 0xFFC 5) :: [] ∧ 0xFFC % 4 = 0 ∧ 0xFFC < 0x1000 := by
  decide

/-- `W = 64`: the sign word and the last limb of X15, written and read, in each phase. -/
theorem witness_WindowWordWrites :
    (writing 0x10B8 5 (on ⟨2, 22⟩ .idle [])).phase = .idle ∧ (on ⟨2, 22⟩ .idle []).params.limbs ≠ 0 ∧
    0x10B4 = 0x1000 + (15 : Reg).val * (4 * ((on ⟨2, 22⟩ .idle []).params.limbs.val + 1)) ∧
    1 < (on ⟨2, 22⟩ .idle []).params.limbs.val ∧
    (writing (0x10B4 + 4 * (1 + 1)) 5 (on ⟨2, 22⟩ .idle [])).pending = .host (.writeReg 0x10BC 5) :: [] ∧
    (writing 0x10B4 1 (on ⟨2, 22⟩ .idle [])).pending = .host (.writeReg 0x10B4 1) :: [] ∧
    (on ⟨2, 22⟩ (.busy .start) []).phase ≠ .idle ∧ (on ⟨2, 22⟩ (.busy .start) []).busy = true ∧
    (on ⟨2, 22⟩ .idle []).busy = false ∧ (on ⟨2, 22⟩ (.faulted .table) []).busy = false ∧
    (before (.host (.readReg (0x10B4 + 4 * (1 + 1)))) (on ⟨2, 22⟩ .idle [])).pending
      = .host (.readReg 0x10BC) :: [] ∧
    (before (.host (.readReg 0x10B4)) (on ⟨2, 22⟩ .idle [])).pending = .host (.readReg 0x10B4) :: [] := by
  decide

theorem witness_BusErrorsChangeNothing :
    (before (.host (.writeReg 0x1001 5)) State.reset).pending = .host (.writeReg 0x1001 5) :: [] ∧ 0x1001 % 4 ≠ 0 ∧
    0x02 % 4 ≠ 0 ∧
    (before (.host (.oddAccess .byte 0x0C)) State.reset).pending = .host (.oddAccess .byte 0x0C) :: [] := by decide

/-- A write of IE, and a soft reset. -/
theorem witness_FaultedUntilReset :
    (∃ t, (writing 0x08 0x1 (State.reset.raise .rng)).phase = .faulted .rng ∧
      (writing 0x08 0x1 (State.reset.raise .rng)).port = .free ∧
      step (writing 0x08 0x1 (State.reset.raise .rng)) = .next t ∧ t.ie = true) ∧
    ∃ t, step (writing 0x08 0x2 (State.reset.raise .rng)) = .next t ∧ t.phase = .idle :=
  ⟨⟨_, rfl, rfl, rfl, rfl⟩, _, rfl, rfl⟩

theorem witness_BusyShieldsTheCommand :
    ∃ t, (writing 0x0C 1 (cmd [7])).busy = true ∧ (writing 0x0C 1 (cmd [7])).pending = .host (.writeReg 0x0C 1) :: [] ∧
      Transaction.writeReg 0x0C 1 ≠ .hardReset ∧ (∀ w, Transaction.writeReg 0x0C 1 ≠ .writeReg 0x08 w) ∧
      step (writing 0x0C 1 (cmd [7])) = .next t :=
  ⟨_, rfl, rfl, by decide, by simp, rfl⟩

theorem witness_StepKeepsInvariant : ∃ t, StateInv (writing 0 0 State.reset) ∧ step (writing 0 0 State.reset) = .next t :=
  ⟨_, ⟨inv_reset.1, inv_reset.2, inv_reset.3, inv_reset.4, inv_reset.5, inv_reset.6, inv_reset.7,
    (fun _ h => nomatch h), inv_reset.9⟩, rfl⟩

end Sys2Proof.Tests
end

section
/-! The capacity fault (R11, R231): when `modinv` is present, what raising a fault leaves behind, the end of
GENKEY, and that with `W = none` no command raises F_CAPACITY. -/

namespace Sys2Proof.Machine

/-! ## The gcd inside `xgcd` and `modinv` -/

/-- The remainders of `xgcd`'s loop are those of `gcd`'s loop (R106, R110). -/
theorem xgcdLoop_remainder (fuel r0 r1 : Nat) (s0 s1 t0 t1 : Int) :
    (xgcdLoop fuel r0 r1 s0 s1 t0 t1).2.2 = gcdLoop fuel r0 r1 := by
  induction fuel generalizing r0 r1 s0 s1 t0 t1 with
  | zero => rfl
  | succ fuel ih =>
    have hmod : r0 - r0 / r1 * r1 = r0 % r1 := Nat.mod_eq_sub_div_mul.symm
    simp only [xgcdLoop, gcdLoop, hmod]
    split
    · rfl
    · exact ih ..

/-- The third result of `xgcd` is `gcd` (R110). -/
@[simp] theorem xgcd_gcd (u v : Int) : (xgcd u v).2.2 = gcd u v :=
  congrArg Nat.cast (xgcdLoop_remainder v.natAbs u.natAbs v.natAbs 1 0 0 1)

/-- For coprime arguments the inverse is present, the first Bezout coefficient modulo `m` (R113). -/
theorem modinv_of_gcd_eq_one {a m : Int} (h : gcd a m = 1) : modinv a m = some ((xgcd a m).1 % m) := by
  simp [modinv, h]

/-! ## Raising a fault, and results that do not fit -/

/-- Raising a fault leaves everything else as it was (R232 to R234). -/
theorem State.faults_raise (s : State) (c : FaultCode) : Faults c s (s.raise c) where
  phase := rfl
  done := rfl
  outcome := rfl
  port := rfl
  controls := ⟨rfl, rfl, rfl, rfl, rfl, rfl, rfl, rfl⟩
  regs := fun _ _ => rfl
  table := ⟨rfl, fun _ => rfl⟩

/-- One result that does not fit raises F_CAPACITY for all of them (R231). -/
theorem State.finish_of_not_fits (s : State) {ws : List (Reg × Int)} {w : Reg × Int} (hw : w ∈ ws)
    (h : fits s.params w.2 = false) : s.finish ws = s.raise .capacity := by
  rcases s.finish_cases ws with ⟨-, hall⟩ | ⟨hraise, -⟩
  · exact absurd (hall w hw) (by simp [h])
  · exact hraise

/-- With `W = none` every value fits (R10, R11). -/
theorem fits_of_limbs_eq_zero {p : Params} (h : p.limbs = 0) (v : Int) : fits p v = true := by
  simp [fits, widthOf, h]

theorem tableFits_of_limbs_eq_zero {p : Params} (h : p.limbs = 0) (e n r : Nat) : tableFits p e n r = true := by
  simp [tableFits, fits_of_limbs_eq_zero h]

/-! ## With `W = none` no command raises F_CAPACITY -/

/-- The next state of `o`, if it has one, is not one with F_CAPACITY raised. -/
def NoCapacityFault (o : Host.Outcome State Fault Refusal) : Prop :=
  ∀ t, o = .next t → t.phase ≠ .faulted .capacity

namespace NoCapacityFault

variable {s t : State}

theorem of_phase_ne (h : t.phase ≠ .faulted .capacity) : NoCapacityFault (.next t) := by
  rintro _ ⟨⟩
  exact h

theorem raise {c : FaultCode} (h : c ≠ .capacity := by decide) : NoCapacityFault (.next (s.raise c)) :=
  of_phase_ne (by simpa using h)

theorem complete (o : OutcomeCode) : NoCapacityFault (.next (s.complete o)) := of_phase_ne (by simp)

theorem continueWith (w : Work) : NoCapacityFault (.next (s.continueWith w)) := of_phase_ne (by simp)

theorem finish (hw : s.params.limbs = 0) (ws : List (Reg × Int)) : NoCapacityFault (.next (s.finish ws)) := by
  rw [s.finish_of_fits ws fun w _ => fits_of_limbs_eq_zero hw w.2]
  exact complete _

/-- A draw without an answer waits in the phase the command is in, or raises F_RNG (R245, R246). -/
theorem draw {w : Work} {lo hi : Int} (hs : s.phase = .busy w) (h : s.draw lo hi = .wait t ∨ s.draw lo hi = .bad t) :
    NoCapacityFault (.next t) := by
  rcases s.draw_cases lo hi with ⟨-, hd⟩ | ⟨_, _, -, hd⟩ | ⟨_, _, _, -, -, hd⟩ | ⟨_, _, _, -, -, -, hd⟩ <;>
    rw [hd] at h <;> rcases h with h | h <;> cases h
  · exact of_phase_ne (by simp [hs])
  · exact of_phase_ne (by simp [hs])
  · exact raise

end NoCapacityFault

section

variable {s : State}

theorem searchAndEnd_noCapacityFault (hw : s.params.limbs = 0) {rd : Reg} {n c r : Nat} :
    NoCapacityFault (.next (searchAndEnd rd n c r s)) := by
  rcases searchAndEnd_cases rd n c r s with ⟨-, h⟩ | ⟨v, -, h⟩ <;> rw [h]
  · exact .complete _
  · exact .finish hw _

theorem isprimeLoop_noCapacityFault (hw : s.params.limbs = 0)
    {w : Work} (hs : s.phase = .busy w) {rd : Reg} {o : Oracle} :
    NoCapacityFault (.next (isprimeLoop rd o s)) := by
  unfold isprimeLoop
  rcases s.oracleMove_cases o with ⟨-, h⟩ | ⟨-, t, hd, h⟩ | ⟨-, a, t, hd, ⟨-, h⟩ | ⟨-, -, h⟩ | ⟨-, -, h⟩⟩ <;> rw [h]
  · exact .finish hw _
  · exact .draw hs hd
  · exact .continueWith _
  · exact .continueWith _
  · rw [State.draw_value hd]
    show NoCapacityFault (.next (State.finish { s with port := .free } _))
    rw [State.finish_port]
    exact .finish hw _

theorem isprimeStart_noCapacityFault (hw : s.params.limbs = 0) {rd rs1 : Reg} :
    NoCapacityFault (.next (isprimeStart rd rs1 s)) := by
  unfold isprimeStart
  split
  · exact .raise
  · split
    · exact .finish hw _
    · exact .continueWith _

theorem keySide_noCapacityFault {σ : Side} {g : KeyWork} : NoCapacityFault (.next (keySide σ g s)) := by
  unfold keySide
  split
  · exact .continueWith _
  · split
    · exact .complete _
    · exact .continueWith _

theorem keyCandidate_noCapacityFault {w : Work} (hs : s.phase = .busy w) {σ : Side} {g : KeyWork} :
    NoCapacityFault (.next (keyCandidate σ g s)) := by
  unfold keyCandidate
  split
  · rename_i t hd; exact .draw hs (.inl hd)
  · rename_i t hd; exact .draw hs (.inr hd)
  · split <;> exact .continueWith _

theorem keyTest_noCapacityFault {w : Work} (hs : s.phase = .busy w) {σ : Side} {o : Oracle} {g : KeyWork} :
    NoCapacityFault (.next (keyTest σ o g s)) := by
  unfold keyTest
  rcases s.oracleMove_cases o with ⟨-, h⟩ | ⟨-, t, hd, h⟩ | ⟨-, a, t, -, ⟨-, h⟩ | ⟨-, -, h⟩ | ⟨-, -, h⟩⟩ <;> rw [h]
  · exact .continueWith _
  · exact .draw hs hd
  all_goals exact .continueWith _

theorem keyJudge_noCapacityFault {g : KeyWork} : NoCapacityFault (.next (keyJudge g s)) := by
  unfold keyJudge
  split
  · simp only [keyModulus]
    split_ifs
    · exact .complete _
    · exact .continueWith _
    · exact .continueWith _
  all_goals exact .continueWith _

theorem keyExponent_noCapacityFault {w : Work} (hs : s.phase = .busy w) {n phi : Int} {l : Nat} {g : KeyWork} :
    NoCapacityFault (.next (keyExponent n phi l g s)) := by
  unfold keyExponent
  split
  · rename_i t hd; exact .draw hs (.inl hd)
  · rename_i t hd; exact .draw hs (.inr hd)
  · split <;> exact .continueWith _

theorem keyInverse_noCapacityFault (hw : s.params.limbs = 0)
    {rd rd2 rd3 : Reg} {n phi : Int} {l : Nat} {e : Int} {g : KeyWork} :
    NoCapacityFault (.next (keyInverse rd rd2 rd3 n phi l e g s)) := by
  unfold keyInverse
  split
  · exact .continueWith _
  · exact .finish hw _

theorem genkeyMove_noCapacityFault (hw : s.params.limbs = 0)
    {w : Work} (hs : s.phase = .busy w) {rd rd2 rd3 : Reg} {g : KeyWork} :
    NoCapacityFault (.next (genkeyMove rd rd2 rd3 g s)) := by
  unfold genkeyMove
  split
  · exact keySide_noCapacityFault
  · exact keyCandidate_noCapacityFault hs
  · exact keyTest_noCapacityFault hs
  · exact keyJudge_noCapacityFault
  · exact keyExponent_noCapacityFault hs
  · exact keyInverse_noCapacityFault hw

theorem genkeyStart_noCapacityFault {rs1 rs2 : Reg} : NoCapacityFault (.next (genkeyStart rs1 rs2 s)) := by
  simp only [genkeyStart]
  split_ifs
  exacts [.raise, .raise, .raise, .continueWith _]

theorem breakStart_noCapacityFault (hw : s.params.limbs = 0) {rs1 rs2 rs3 rs4 : Reg} :
    NoCapacityFault (.next (breakStart rs1 rs2 rs3 rs4 s)) := by
  simp only [breakStart]
  split_ifs with _ _ _ hfit
  exacts [.raise, .raise, .raise, .continueWith _, absurd (tableFits_of_limbs_eq_zero hw ..) hfit]

/-- R231: with `W = none` no move of any command raises F_CAPACITY. -/
theorem exec_noCapacityFault (hw : s.params.limbs = 0) (i : Instr) : NoCapacityFault (exec i s) := by
  cases i with
  | nop => exact .complete _
  | modmul rd rs1 rs2 rs3 =>
    simp only [exec, execModmul]
    split_ifs
    exacts [.raise, .raise, .finish hw _]
  | modpow rd rs1 rs2 rs3 =>
    simp only [exec, execModpow]
    split_ifs
    exacts [.raise, .raise, .finish hw _]
  | gcd rd rs1 rs2 => exact .finish hw _
  | xgcd rd rd2 rd3 rs1 rs2 => exact .finish hw _
  | modinv rd rs1 rs2 =>
    simp only [exec, execModinv]
    split
    · exact .raise
    · split
      · exact .complete _
      · exact .finish hw _
  | witness rd rs1 rs2 rs3 rs4 =>
    simp only [exec, execWitness]
    split_ifs
    exacts [.raise, .raise, .finish hw _]
  | isprime rd rs1 =>
    simp only [exec, execIsprime]
    split
    · rename_i o hs; exact isprimeLoop_noCapacityFault hw hs
    all_goals exact isprimeStart_noCapacityFault hw
  | genkey rd rd2 rd3 rs1 rs2 =>
    simp only [exec, execGenkey]
    split
    · rename_i g hs; exact genkeyMove_noCapacityFault hw hs
    all_goals exact genkeyStart_noCapacityFault
  | encrypt rd rs1 rs2 rs3 =>
    simp only [exec, execEncrypt]
    split_ifs
    exacts [.raise, .raise, .complete _, .finish hw _]
  | decrypt rd rs1 rs2 rs3 =>
    simp only [exec, execDecrypt]
    split_ifs
    exacts [.raise, .raise, .finish hw _]
  | buildtab rs1 rs2 rs3 =>
    simp only [exec, execBuildtab]
    split_ifs with _ _ _ hfit
    exacts [.raise, .raise, .raise, .complete _, absurd (tableFits_of_limbs_eq_zero hw ..) hfit]
  | findmsg rd rs1 rs2 rs3 =>
    simp only [exec, execFindmsg]
    split_ifs
    exacts [.raise, .raise, .raise, .raise, searchAndEnd_noCapacityFault hw]
  | breakmsg rd rs1 rs2 rs3 rs4 =>
    simp only [exec, execBreakmsg]
    split
    · exact searchAndEnd_noCapacityFault hw
    all_goals exact breakStart_noCapacityFault hw
  | tabrd rd rs1 =>
    simp only [exec, execTabrd]
    split
    · exact .raise
    · exact .finish hw _

end

/-! ## GENKEY's last move -/

/-- GENKEY's last move ends with the results `e`, its inverse and `n`: the inverse is present (R159). -/
theorem exec_genkey_inverse (rd rd2 rd3 rs1 rs2 : Reg) {s : State} {g : KeyWork} {n phi e : Int} {l : Nat}
    (hs : s.phase = .busy (.keygen g)) (hg : g.stage = .inverse n phi l e) (hgcd : gcd e phi = 1) :
    exec (.genkey rd rd2 rd3 rs1 rs2) s = .next (s.finish [(rd, e), (rd2, (xgcd e phi).1 % phi), (rd3, n)]) := by
  simp [exec, execGenkey, genkeyMove, keyInverse, hs, hg, modinv_of_gcd_eq_one hgcd]

end Sys2Proof.Machine

namespace Sys2Proof

open Sys2Proof.Machine

/-- Settles O30: `n` is among the results of GENKEY's last move, so one that does not fit raises the fault; with
`W = none` every value fits. -/
theorem capacityFaults : Obligations.CapacityFaults := by
  refine ⟨fun rd rd2 rd3 rs1 rs2 s g n phi e l hs hg hok hn => ⟨s.raise .capacity, ?_, s.faults_raise _⟩, ?_⟩
  · obtain ⟨-, -, -, hstage⟩ := hok
    rw [hg] at hstage
    obtain ⟨-, -, -, hgcd⟩ := hstage
    rw [exec_genkey_inverse rd rd2 rd3 rs1 rs2 hs hg hgcd, s.finish_of_not_fits (w := (rd3, n)) (by simp) hn]
  · intro i s t hw hexec hphase
    exact absurd hphase (exec_noCapacityFault hw i t hexec)

end Sys2Proof
end

section
/-! The invariant of the machine (`StateInv`), kept by every event: one lemma per shared operation, then the moves of ISPRIME,
GENKEY and the breaker, then `exec`, the host's transactions and `step`. -/

namespace Sys2Proof.Machine

/-! ## Values that fit -/

/-- R11, R20: where `W` is finite a value fits when its magnitude is below `2^W`. -/
theorem fits_iff {p : Params} {v : Int} :
    fits p v = true ↔ (p.limbs.val ≠ 0 → v.natAbs < 2 ^ (32 * p.limbs.val)) := by
  unfold fits widthOf
  by_cases h : p.limbs.val = 0 <;> simp [h]

@[simp] theorem fits_zero (p : Params) : fits p 0 = true := fits_iff.2 fun _ => Nat.two_pow_pos _

theorem IntReg.natAbs_value (r : IntReg) : r.value.natAbs = r.mag := by
  unfold IntReg.value
  split <;> simp

/-- R65: a write of one of a register's `L` limbs keeps the magnitude below `2^(32 * L)`. -/
theorem IntReg.mag_withLimb_lt {r : IntReg} {j L : Nat} (w : Word) (hj : j < L) (hr : r.mag < 2 ^ (32 * L)) :
    (r.withLimb j w).mag < 2 ^ (32 * L) := by
  obtain ⟨d, rfl⟩ := Nat.exists_eq_add_of_lt hj
  have hL : 2 ^ (32 * (j + d + 1)) = 2 ^ (32 * d) * 2 ^ (32 * (j + 1)) := by
    rw [show 32 * (j + d + 1) = 32 * d + 32 * (j + 1) by ring, pow_add]
  have hB : 2 ^ (32 * (j + 1)) = 2 ^ 32 * 2 ^ (32 * j) := by rw [Nat.mul_succ, Nat.add_comm, pow_add]
  have hhigh : r.mag / 2 ^ (32 * (j + 1)) + 1 ≤ 2 ^ (32 * d) :=
    Nat.div_lt_of_lt_mul (by rwa [Nat.mul_comm, ← hL])
  have hlow : r.mag % 2 ^ (32 * j) < 2 ^ (32 * j) := Nat.mod_lt _ (Nat.two_pow_pos _)
  have hmid : (w.toNat + 1) * 2 ^ (32 * j) ≤ 2 ^ 32 * 2 ^ (32 * j) := Nat.mul_le_mul_right _ w.isLt
  have htop := Nat.mul_le_mul_right (2 ^ (32 * (j + 1))) hhigh
  rw [← hL] at htop
  simp only [IntReg.withLimb]
  rw [Nat.add_mul] at hmid htop
  omega

/-- R63: a word of the register window is the sign or one of the `W / 32` limbs. -/
theorem windowSlot_word_le {p : Params} {off word : Nat} {i : Reg} (h : windowSlot p off = some (i, word)) :
    word ≤ p.limbs.val := by
  simp only [windowSlot] at h
  split_ifs at h
  obtain ⟨-, rfl⟩ := Prod.mk.inj (Option.some.inj h)
  have := Nat.mod_lt (off - 0x1000) (show 0 < 4 * (p.limbs.val + 1) by omega)
  omega

/-! ## Entering the oracle, and the working registers of GENKEY -/

/-- R134: `is_probable_prime` decides up to 2, and enters its loop with the decomposition of R130 from 3 on. -/
theorem enterOracle_cases (n : Int) :
    (n < 2 ∧ enterOracle n = .decided false) ∨ (n = 2 ∧ enterOracle n = .decided true) ∨
    (3 ≤ n ∧ ∃ o, enterOracle n = .rounds o ∧ (o.n : Int) = n ∧ OracleOk o) := by
  unfold enterOracle
  by_cases h1 : n < 2
  · exact .inl ⟨h1, if_pos h1⟩
  · by_cases h2 : n = 2
    · exact .inr (.inl ⟨h2, by rw [if_neg h1, if_pos h2]⟩)
    · refine .inr (.inr ⟨by omega, _, by rw [if_neg h1, if_neg h2], ?_, ?_, rfl, rfl⟩)
      · exact Int.toNat_of_nonneg (by omega)
      · show 3 ≤ n.toNat
        omega

/-- The stage of a running GENKEY agrees with its other working registers. -/
theorem KeyOk.stageOk {g : KeyWork} (hg : KeyOk g) {st : KeyStage} (hst : g.stage = st) : KeyStageOk g st := by
  obtain ⟨-, -, -, hstage⟩ := hg
  rwa [hst] at hstage

/-- What a stage asks of the other working registers does not depend on the attempts and the stage stored beside them. -/
theorem KeyStageOk.update {g : KeyWork} {st : KeyStage} (h : KeyStageOk g st) (a : Nat) (st' : KeyStage) :
    KeyStageOk { g with attempts := a, stage := st' } st := by
  cases st <;> exact h

/-- The stage of a running GENKEY may become any one that agrees with its candidates. -/
theorem KeyOk.update {g : KeyWork} (hg : KeyOk g) (a : Nat) {st : KeyStage} (hst : KeyStageOk g st) :
    KeyOk { g with attempts := a, stage := st } := by
  obtain ⟨hlo, hhi, hacc, -⟩ := hg
  exact ⟨hlo, hhi, hacc, hst.update a st⟩

/-- R152: a tested candidate keeps the working registers in order, when an accepted one is in range. -/
theorem KeyOk.tested {g : KeyWork} (hg : KeyOk g) (σ : Side) {v : Int} {prime : Bool}
    (hv : prime = true → 2 ≤ v ∧ g.lower ≤ v ∧ v ≤ g.upper) : KeyOk (g.tested σ v prime) := by
  have hafter : KeyStageOk g (afterSide σ) := by cases σ <;> exact trivial
  cases prime with
  | false => exact hg.update g.attempts hafter
  | true =>
    obtain ⟨hlo, hhi, hacc, -⟩ := hg
    have hnew : ∀ {u : Int}, some v = some u → 2 ≤ u ∧ g.lower ≤ u ∧ u ≤ g.upper := by
      rintro u ⟨⟩
      exact hv rfl
    cases σ with
    | p =>
      refine ⟨hlo, hhi, fun τ u hu => ?_, trivial⟩
      cases τ with
      | p => exact hnew hu
      | q => exact hacc .q u hu
    | q =>
      refine ⟨hlo, hhi, fun τ u hu => ?_, trivial⟩
      cases τ with
      | p => exact hacc .p u hu
      | q => exact hnew hu

/-! ## TABLEN -/

/-- R29, R182: TABLEN holds any width of a table that the table memory can hold. -/
theorem State.toNat_tablen_buildTable {s : State} {r : Nat} (e n : Nat) (hsize : r ≤ tableSize s.params) :
    (s.buildTable e n r).tablen.toNat = r := by
  have hkmax : 2 ^ s.params.kmax.val ≤ 2 ^ 31 := Nat.pow_le_pow_right (by decide) (by omega)
  simp only [tableSize] at hsize
  rw [State.buildTable_tablen, BitVec.toNat_ofNat]
  omega

/-! ## Phases and register values -/

@[simp] theorem State.isIdle_iff {s : State} : s.isIdle = true ↔ s.phase = .idle := by
  unfold State.isIdle
  cases s.phase <;> simp

@[simp] theorem State.reg_resetOf (p : Params) (r : Reg) : (State.resetOf p).reg r = 0 := by
  simp [State.reg, State.resetOf, Vector.get_eq_getElem, IntReg.value]

/-! ## The invariant under the shared operations -/

namespace StateInv

variable {s t : State}

/-- R37: the invariant holds after reset. -/
theorem resetOf (p : Params) : StateInv (State.resetOf p) where
  regsFit := by simp
  tableCanonical := rfl
  entriesFit _ _ hv := nomatch hv
  tablenBound := Nat.zero_le _
  tableValid _ hk := absurd hk (Nat.not_lt_zero _)
  doneIdle _ := rfl
  outcomeIdle _ := rfl
  busyLegal _ hw := nomatch hw
  portDraws _ hp := nomatch hp

theorem raise (h : StateInv s) (c : FaultCode) : StateInv (s.raise c) :=
  { h with
    doneIdle := by simp
    outcomeIdle := by simp
    busyLegal := by simp
    portDraws := by simp [Port.range] }

theorem complete (h : StateInv s) (o : OutcomeCode) : StateInv (s.complete o) :=
  { h with
    doneIdle := by simp
    outcomeIdle := by simp
    busyLegal := by simp
    portDraws := by simp [Port.range] }

/-- The port may be freed in any phase. -/
theorem freePort (h : StateInv s) : StateInv { s with port := .free } :=
  { h with portDraws := by simp [Port.range] }

/-- R21: a register may be replaced by one whose value fits. -/
theorem setX (h : StateInv s) (i : Reg) {r : IntReg} (hr : fits s.params r.value = true) :
    StateInv { s with x := s.x.set i.val r i.isLt } := by
  refine { h with regsFit := fun j => ?_ }
  by_cases hj : i.val = j.val
  · simpa [State.reg, Vector.get_eq_getElem, ← hj] using hr
  · have hold := h.regsFit j
    simp only [State.reg, Vector.get_eq_getElem] at hold ⊢
    rwa [Vector.getElem_set_ne _ _ hj]

theorem setReg (h : StateInv s) (i : Reg) {v : Int} (hv : fits s.params v = true) : StateInv (s.setReg i v) :=
  h.setX i (by simpa using hv)

theorem setRegs (h : StateInv s) (ws : List (Reg × Int)) (hws : ∀ w ∈ ws, fits s.params w.2 = true) :
    StateInv (s.setRegs ws) := by
  induction ws generalizing s with
  | nil => exact h
  | cons w ws ih =>
    exact ih (h.setReg w.1 (hws w (List.mem_cons_self ..))) fun w' hw' => hws w' (List.mem_cons_of_mem _ hw')

theorem finish (h : StateInv s) (ws : List (Reg × Int)) : StateInv (s.finish ws) := by
  rcases s.finish_cases ws with ⟨heq, hfit⟩ | ⟨heq, -⟩ <;> rw [heq]
  · exact (h.setRegs ws hfit).complete .ok
  · exact h.raise .capacity

theorem searchAndEnd (h : StateInv s) (rd : Reg) (n c r : Nat) : StateInv (searchAndEnd rd n c r s) := by
  rcases searchAndEnd_cases rd n c r s with ⟨-, heq⟩ | ⟨v, -, heq⟩ <;> rw [heq]
  · exact h.complete _
  · exact h.finish _

/-! ### A running command -/

section

variable {w : Work} (h : StateInv s) (hs : s.phase = .busy w)
include h hs

theorem done_eq_false : s.done = false := by
  by_contra hd
  have := h.doneIdle (by simpa using hd)
  simp [hs] at this

theorem workOk : WorkOk s w := (h.busyLegal w hs).1

/-- The working registers are those of the command LASTCMD holds (R34). -/
theorem workOf_eq_true {i : Instr} (hi : decodeWord s.lastcmd = .ok i) : workOf i w = true := by
  obtain ⟨-, j, hj, hw⟩ := h.busyLegal w hs
  cases hi.symm.trans hj
  exact hw

/-- R245, R247: a request of a running command carries the range of the draw the command is at. -/
theorem drawRange_eq {range : Int × Int} (hp : s.port.range = some range) :
    drawRange s.rounds.toNat w = some range := by
  obtain ⟨w', hs', hr⟩ := h.portDraws range hp
  cases hs.symm.trans hs'
  exact hr

/-- R247: away from its draws a running command has no request outstanding. -/
theorem port_eq_free (hr : drawRange s.rounds.toNat w = none) : s.port = .free := by
  have hnone : ∀ range, s.port.range ≠ some range := fun range hp => by
    simpa [hr] using h.drawRange_eq hs hp
  cases hp : s.port with
  | free => rfl
  | asked lo hi => exact absurd (by rw [hp]; rfl) (hnone (lo, hi))
  | answered lo hi v => exact absurd (by rw [hp]; rfl) (hnone (lo, hi))

/-- A command goes on with no request outstanding and with working registers of its own that are in order. -/
theorem continueWith {i : Instr} (hi : decodeWord s.lastcmd = .ok i) (hport : s.port = .free) {w' : Work}
    (hok : WorkOk s w') (hwork : workOf i w' = true) : StateInv (s.continueWith w') :=
  { h with
    doneIdle := by simp [h.done_eq_false hs]
    outcomeIdle := fun _ => h.outcomeIdle (by simp [hs])
    busyLegal := by
      rintro _ ⟨⟩
      exact ⟨hok, i, hi, hwork⟩
    portDraws := by simp [hport, Port.range] }

/-- A draw that is not answered, or answered out of range, keeps the invariant at the draw's own place (R245, R246). -/
theorem draw_stop {lo hi : Int} (hr : drawRange s.rounds.toNat w = some (lo, hi))
    (hd : s.draw lo hi = .wait t ∨ s.draw lo hi = .bad t) : StateInv t := by
  rcases s.draw_cases lo hi with ⟨-, hd'⟩ | ⟨_, _, -, hd'⟩ | ⟨_, _, _, -, -, hd'⟩ | ⟨_, _, _, -, -, -, hd'⟩ <;>
    rw [hd'] at hd <;> rcases hd with hd | hd <;> cases hd
  · refine { h with portDraws := fun range hp => ⟨w, hs, ?_⟩ }
    rw [hr]
    exact hp
  · exact h
  · exact h.raise _

/-- R246: the answer a draw takes lies in the range drawn from, and the port is free again. -/
theorem draw_answered {lo hi v : Int} (hr : drawRange s.rounds.toNat w = some (lo, hi))
    (hd : s.draw lo hi = .value v t) : lo ≤ v ∧ v ≤ hi ∧ t = { s with port := .free } := by
  rcases s.draw_cases lo hi with ⟨-, hd'⟩ | ⟨_, _, -, hd'⟩ | ⟨_, _, _, -, -, hd'⟩ | ⟨l, u, _, hp, hl, hu, hd'⟩ <;>
    rw [hd'] at hd <;> cases hd
  have hrange := h.drawRange_eq hs (range := (l, u)) (by rw [hp]; rfl)
  cases hr.symm.trans hrange
  exact ⟨hl, hu, rfl⟩

end

/-! ### The model's own fields, CTRL and the table -/

/-- `pending`, `clock` and `response` (logs 3, 8, 12) take no part in the invariant. -/
theorem setOwnFields (h : StateInv s) (pending : List Event) (clock : Nat) (response : Response) :
    StateInv { s with pending := pending, clock := clock, response := response } :=
  { h with }

/-- R37, R260: a reset of the CORE restores the invariant, from any state. -/
theorem resetCore (s : State) : StateInv s.resetCore :=
  (resetOf s.params).setOwnFields s.pending s.clock s.response

theorem setIe (h : StateInv s) (b : Bool) : StateInv { s with ie := b } := { h with }

theorem respond (h : StateInv s) (r : Response) : StateInv (s.respond r) := h.setOwnFields s.pending s.clock r

/-- R29, R52, R182: before its first move a command may build a table of a width the table memory holds. -/
theorem buildTable (h : StateInv s) (hs : s.phase = .busy .start) {e n r : Nat} (hr : 1 ≤ r)
    (hsize : r ≤ tableSize s.params) (hfit : tableFits s.params e n r = true) : StateInv (s.buildTable e n r) := by
  have hread : ∀ k, Table.read? (s.buildTable e n r).table k = (tableEntries e n r)[k]?.or (Table.read? s.table k) :=
    fun k => by simpa using Table.read_writeFrom s.table 0 k (tableEntries e n r)
  have hlen := length_tableEntries e n r hr
  have htablen := State.toNat_tablen_buildTable e n hsize
  refine { h with
    tableCanonical := State.wf_buildTable e n r h.tableCanonical
    entriesFit := fun k v hv => ?_
    tablenBound := htablen.trans_le hsize
    tableValid := fun k hk => ?_
    busyLegal := fun w hw => ?_ }
  · by_cases hk : k < r
    · have hk' : k < (tableEntries e n r).length := hlen.symm ▸ hk
      rw [hread, List.getElem?_eq_getElem hk', Option.some_or, Option.some.injEq] at hv
      have hall : ∀ u ∈ tableEntries e n r, fits s.params u = true := by simpa [tableFits] using hfit
      exact ⟨hk.trans_le hsize, hv ▸ hall _ (List.getElem_mem hk')⟩
    · rw [hread, List.getElem?_eq_none (by omega), Option.none_or] at hv
      exact h.entriesFit k v hv
  · rw [htablen] at hk
    rw [hread, List.getElem?_eq_getElem (hlen.symm ▸ hk), Option.some_or, Option.isSome_some]
  · cases hs.symm.trans hw
    exact ⟨trivial, (h.busyLegal _ hs).2⟩

end StateInv

/-! ## The moves of ISPRIME -/

section

variable {s : State} (h : StateInv s)
include h

theorem isprimeStart_keepsInvariant {rd rs1 : Reg} (hs : s.phase = .busy .start)
    (hi : decodeWord s.lastcmd = .ok (.isprime rd rs1)) : StateInv (isprimeStart rd rs1 s) := by
  unfold isprimeStart
  split_ifs
  · exact h.raise _
  · rcases enterOracle_cases (s.reg rs1) with ⟨-, heq⟩ | ⟨-, heq⟩ | ⟨-, o, heq, -, ho⟩ <;> rw [heq]
    · exact h.finish _
    · exact h.finish _
    · exact h.continueWith hs hi (h.port_eq_free hs rfl) ho rfl

/-- One round of the oracle: what the move in its loop keeps and what it tells, wherever the running command has it. -/
theorem oracleMove_underInvariant {w : Work} {o : Oracle} (hs : s.phase = .busy w)
    (hr : drawRange s.rounds.toNat w = if o.round ≤ s.rounds.toNat then some (0, (o.n : Int) - 1) else none) :
    (∃ t, s.oracleMove o = .stop t ∧ StateInv t) ∨
    (∃ k, s.oracleMove o = .again { o with round := k } { s with port := .free }) ∨
    (∃ b, s.oracleMove o = .verdict b { s with port := .free }) := by
  rcases s.oracleMove_cases o with ⟨hlt, heq⟩ | ⟨hle, t, hd, heq⟩ | ⟨hle, a, t, hd, hrest⟩
  · rw [if_neg (by omega)] at hr
    have hport := h.port_eq_free hs hr
    exact .inr (.inr ⟨true, by rw [heq, ← hport]⟩)
  · rw [if_pos hle] at hr
    exact .inl ⟨t, heq, h.draw_stop hs hr hd⟩
  · rw [if_pos hle] at hr
    obtain ⟨-, -, rfl⟩ := h.draw_answered hs hr hd
    rcases hrest with ⟨-, heq⟩ | ⟨-, -, heq⟩ | ⟨-, -, heq⟩
    · exact .inr (.inl ⟨o.round, heq⟩)
    · exact .inr (.inl ⟨o.round + 1, heq⟩)
    · exact .inr (.inr ⟨false, heq⟩)

theorem isprimeLoop_keepsInvariant {rd rs1 : Reg} {o : Oracle} (hs : s.phase = .busy (.oracle o))
    (hi : decodeWord s.lastcmd = .ok (.isprime rd rs1)) : StateInv (isprimeLoop rd o s) := by
  unfold isprimeLoop
  rcases oracleMove_underInvariant h hs (o := o) rfl with ⟨t, heq, ht⟩ | ⟨k, heq⟩ | ⟨b, heq⟩ <;> rw [heq]
  · exact ht
  · exact h.freePort.continueWith hs hi rfl (h.workOk hs) rfl
  · exact h.freePort.finish _

/-! ## The moves of GENKEY -/

theorem genkeyStart_keepsInvariant {rd rd2 rd3 rs1 rs2 : Reg} (hs : s.phase = .busy .start)
    (hi : decodeWord s.lastcmd = .ok (.genkey rd rd2 rd3 rs1 rs2)) : StateInv (genkeyStart rs1 rs2 s) := by
  simp only [genkeyStart]
  split_ifs with _ hneg hgt
  · exact h.raise _
  · exact h.raise _
  · exact h.raise _
  · have hlower : 0 ≤ s.reg rs1 := by omega
    have hupper : s.reg rs1 ≤ s.reg rs2 := by omega
    refine h.continueWith hs hi (h.port_eq_free hs rfl) ⟨hlower, hupper, fun σ v hv => ?_, trivial⟩ rfl
    cases σ <;> cases hv

section

variable {rd rd2 rd3 rs1 rs2 : Reg} {g : KeyWork} (hs : s.phase = .busy (.keygen g))
  (hi : decodeWord s.lastcmd = .ok (.genkey rd rd2 rd3 rs1 rs2))
include hs hi

/-- GENKEY goes on with other working registers in order, away from its draws. -/
theorem keygen_goesOn (hr : drawRange s.rounds.toNat (.keygen g) = none) {g' : KeyWork} (hok : KeyOk g') :
    StateInv (s.continueWith (.keygen g')) :=
  h.continueWith hs hi (h.port_eq_free hs hr) hok rfl

/-- GENKEY goes on with other working registers in order, once its draw was answered. -/
theorem keygen_goesOn_freePort {g' : KeyWork} (hok : KeyOk g') :
    StateInv (State.continueWith { s with port := .free } (.keygen g')) :=
  h.freePort.continueWith hs hi rfl hok rfl

theorem keySide_keepsInvariant {σ : Side} (hg : g.stage = .side σ) : StateInv (keySide σ g s) := by
  have hok : KeyOk g := h.workOk hs
  have hr : drawRange s.rounds.toNat (.keygen g) = none := by simp [drawRange, hg]
  unfold keySide
  split
  · exact keygen_goesOn h hs hi hr (hok.update g.attempts (by cases σ <;> exact trivial))
  · rename_i hnone
    split_ifs
    · exact h.complete _
    · exact keygen_goesOn h hs hi hr (hok.update _ hnone)

theorem keyCandidate_keepsInvariant {σ : Side} (hg : g.stage = .candidate σ) : StateInv (keyCandidate σ g s) := by
  have hok : KeyOk g := h.workOk hs
  have hr : drawRange s.rounds.toNat (.keygen g) = some (g.lower, g.upper) := by simp [drawRange, hg]
  have hnone : g.accepted σ = none := hok.stageOk hg
  unfold keyCandidate
  split
  · rename_i t hd; exact h.draw_stop hs hr (.inl hd)
  · rename_i t hd; exact h.draw_stop hs hr (.inr hd)
  · rename_i v t hd
    obtain ⟨hlo, hhi, rfl⟩ := h.draw_answered hs hr hd
    rcases enterOracle_cases v with ⟨-, heq⟩ | ⟨htwo, heq⟩ | ⟨-, o, heq, hn, ho⟩ <;> rw [heq]
    · exact keygen_goesOn_freePort h hs hi (hok.tested σ (by simp))
    · exact keygen_goesOn_freePort h hs hi (hok.tested σ fun _ => ⟨htwo.ge, hlo, hhi⟩)
    · refine keygen_goesOn_freePort h hs hi (hok.update g.attempts ⟨hnone, ho, ?_⟩)
      rw [hn]
      exact ⟨hlo, hhi⟩

theorem keyTest_keepsInvariant {σ : Side} {o : Oracle} (hg : g.stage = .test σ o) : StateInv (keyTest σ o g s) := by
  have hok : KeyOk g := h.workOk hs
  obtain ⟨hnone, ho, hlo, hhi⟩ : KeyStageOk g (.test σ o) := hok.stageOk hg
  have hn : 3 ≤ o.n := ho.1
  unfold keyTest
  rcases oracleMove_underInvariant h hs (o := o) (by simp [drawRange, hg]) with
    ⟨t, heq, ht⟩ | ⟨k, heq⟩ | ⟨b, heq⟩ <;> rw [heq]
  · exact ht
  · exact keygen_goesOn_freePort h hs hi (hok.update g.attempts (st := .test σ _) ⟨hnone, ho, hlo, hhi⟩)
  · exact keygen_goesOn_freePort h hs hi (hok.tested σ fun _ => ⟨by omega, hlo, hhi⟩)

theorem keyJudge_keepsInvariant (hg : g.stage = .judge) : StateInv (keyJudge g s) := by
  have hok : KeyOk g := h.workOk hs
  have hr : drawRange s.rounds.toNat (.keygen g) = none := by simp [drawRange, hg]
  have again : StateInv (s.continueWith (.keygen { g with stage := .side .p })) :=
    keygen_goesOn h hs hi hr (hok.update g.attempts (st := .side .p) trivial)
  unfold keyJudge
  split
  · rename_i p q hp hq
    split_ifs with hpq
    · simp only [keyModulus]
      split_ifs with hempty
      · exact h.complete _
      · exact keygen_goesOn h hs hi hr (hok.update g.attempts (st := .exponent _ _ _)
          ⟨p, q, hp, hq, hpq, rfl, rfl, rfl, by omega⟩)
    · obtain ⟨hlo, hhi, hacc, -⟩ := hok
      refine keygen_goesOn h hs hi hr ⟨hlo, hhi, fun σ v hv => ?_, trivial⟩
      cases σ with
      | p => exact hacc .p v hv
      | q => cases hv
  · exact again
  · exact again
  · exact again

theorem keyExponent_keepsInvariant {n phi : Int} {l : Nat} (hg : g.stage = .exponent n phi l) :
    StateInv (keyExponent n phi l g s) := by
  have hok : KeyOk g := h.workOk hs
  have hr : drawRange s.rounds.toNat (.keygen g) = some ((l : Int) + 1, phi - 1) := by simp [drawRange, hg]
  have hmod : KeyModulus g n phi l := hok.stageOk hg
  unfold keyExponent
  split
  · rename_i t hd; exact h.draw_stop hs hr (.inl hd)
  · rename_i t hd; exact h.draw_stop hs hr (.inr hd)
  · rename_i e t hd
    obtain ⟨hlo, hhi, rfl⟩ := h.draw_answered hs hr hd
    split_ifs with hgcd
    · exact keygen_goesOn_freePort h hs hi
        (hok.update g.attempts (st := .inverse n phi l e) ⟨hmod, hlo, hhi, hgcd⟩)
    · exact keygen_goesOn_freePort h hs hi (hok.update g.attempts (st := .exponent n phi l) hmod)

omit hi in
theorem keyInverse_keepsInvariant {n phi e : Int} {l : Nat} (hg : g.stage = .inverse n phi l e) :
    StateInv (keyInverse rd rd2 rd3 n phi l e g s) := by
  have hok : KeyOk g := h.workOk hs
  obtain ⟨-, -, -, hgcd⟩ : KeyStageOk g (.inverse n phi l e) := hok.stageOk hg
  simp only [keyInverse, modinv_of_gcd_eq_one hgcd]
  exact h.finish _

theorem genkeyMove_keepsInvariant : StateInv (genkeyMove rd rd2 rd3 g s) := by
  unfold genkeyMove
  split
  · rename_i hg; exact keySide_keepsInvariant h hs hi hg
  · rename_i hg; exact keyCandidate_keepsInvariant h hs hi hg
  · rename_i hg; exact keyTest_keepsInvariant h hs hi hg
  · rename_i hg; exact keyJudge_keepsInvariant h hs hi hg
  · rename_i hg; exact keyExponent_keepsInvariant h hs hi hg
  · rename_i hg; exact keyInverse_keepsInvariant h hs hg

end

/-! ## The breaker's tables -/

theorem execBuildtab_keepsInvariant {rs1 rs2 rs3 : Reg} (hs : s.phase = .busy .start) :
    ∃ t, execBuildtab rs1 rs2 rs3 s = .next t ∧ StateInv t := by
  simp only [execBuildtab]
  split_ifs with _ _ hwidth hfit
  · exact ⟨_, rfl, h.raise _⟩
  · exact ⟨_, rfl, h.raise _⟩
  · exact ⟨_, rfl, h.raise _⟩
  · exact ⟨_, rfl, (h.buildTable hs (by omega) (by omega) hfit).complete _⟩
  · exact ⟨_, rfl, h.raise _⟩

theorem breakStart_keepsInvariant {rd rs1 rs2 rs3 rs4 : Reg} (hs : s.phase = .busy .start)
    (hi : decodeWord s.lastcmd = .ok (.breakmsg rd rs1 rs2 rs3 rs4)) : StateInv (breakStart rs1 rs2 rs3 rs4 s) := by
  simp only [breakStart]
  split_ifs with hn _ hk hfit
  · exact h.raise _
  · exact h.raise _
  · exact h.raise _
  · have hsize : 2 ^ (s.reg rs4).toNat ≤ tableSize s.params := Nat.pow_le_pow_right (by decide) (by omega)
    have hbuilt := h.buildTable hs Nat.one_le_two_pow hsize hfit
    refine hbuilt.continueWith hs hi (h.port_eq_free hs rfl) ⟨by omega, ?_, Nat.one_le_two_pow, ?_⟩ rfl
    · rw [Int.toNat_of_nonneg (by omega)]
      exact h.regsFit rs2
    · rw [State.toNat_tablen_buildTable _ _ hsize]
  · exact h.raise _

end

/-! ## Every move of every command -/

/-- The engine's move on the command LASTCMD holds keeps the invariant. -/
theorem exec_keepsInvariant {s : State} (h : StateInv s) {w : Work} (hs : s.phase = .busy w) {i : Instr}
    (hi : decodeWord s.lastcmd = .ok i) : ∃ t, exec i s = .next t ∧ StateInv t := by
  have hwork := h.workOf_eq_true hs hi
  cases i with
  | nop => exact ⟨_, rfl, h.complete _⟩
  | modmul rd rs1 rs2 rs3 =>
    simp only [exec, execModmul]
    split_ifs
    exacts [⟨_, rfl, h.raise _⟩, ⟨_, rfl, h.raise _⟩, ⟨_, rfl, h.finish _⟩]
  | modpow rd rs1 rs2 rs3 =>
    simp only [exec, execModpow]
    split_ifs
    exacts [⟨_, rfl, h.raise _⟩, ⟨_, rfl, h.raise _⟩, ⟨_, rfl, h.finish _⟩]
  | gcd rd rs1 rs2 => exact ⟨_, rfl, h.finish _⟩
  | xgcd rd rd2 rd3 rs1 rs2 => exact ⟨_, rfl, h.finish _⟩
  | modinv rd rs1 rs2 =>
    simp only [exec, execModinv]
    split
    · exact ⟨_, rfl, h.raise _⟩
    · split
      · exact ⟨_, rfl, h.complete _⟩
      · exact ⟨_, rfl, h.finish _⟩
  | witness rd rs1 rs2 rs3 rs4 =>
    simp only [exec, execWitness]
    split_ifs
    exacts [⟨_, rfl, h.raise _⟩, ⟨_, rfl, h.raise _⟩, ⟨_, rfl, h.finish _⟩]
  | isprime rd rs1 =>
    cases w with
    | start =>
      simp only [exec, execIsprime, hs]
      exact ⟨_, rfl, isprimeStart_keepsInvariant h hs hi⟩
    | oracle o =>
      simp only [exec, execIsprime, hs]
      exact ⟨_, rfl, isprimeLoop_keepsInvariant h hs hi⟩
    | keygen g => cases hwork
    | search n c r => cases hwork
  | genkey rd rd2 rd3 rs1 rs2 =>
    cases w with
    | start =>
      simp only [exec, execGenkey, hs]
      exact ⟨_, rfl, genkeyStart_keepsInvariant h hs hi⟩
    | oracle o => cases hwork
    | keygen g =>
      simp only [exec, execGenkey, hs]
      exact ⟨_, rfl, genkeyMove_keepsInvariant h hs hi⟩
    | search n c r => cases hwork
  | encrypt rd rs1 rs2 rs3 =>
    simp only [exec, execEncrypt]
    split_ifs
    exacts [⟨_, rfl, h.raise _⟩, ⟨_, rfl, h.raise _⟩, ⟨_, rfl, h.complete _⟩, ⟨_, rfl, h.finish _⟩]
  | decrypt rd rs1 rs2 rs3 =>
    simp only [exec, execDecrypt]
    split_ifs
    exacts [⟨_, rfl, h.raise _⟩, ⟨_, rfl, h.raise _⟩, ⟨_, rfl, h.finish _⟩]
  | buildtab rs1 rs2 rs3 =>
    cases w with
    | start => exact execBuildtab_keepsInvariant h hs
    | oracle o => cases hwork
    | keygen g => cases hwork
    | search n c r => cases hwork
  | findmsg rd rs1 rs2 rs3 =>
    simp only [exec, execFindmsg]
    split_ifs
    exacts [⟨_, rfl, h.raise _⟩, ⟨_, rfl, h.raise _⟩, ⟨_, rfl, h.raise _⟩, ⟨_, rfl, h.raise _⟩,
      ⟨_, rfl, h.searchAndEnd ..⟩]
  | breakmsg rd rs1 rs2 rs3 rs4 =>
    cases w with
    | start =>
      simp only [exec, execBreakmsg, hs]
      exact ⟨_, rfl, breakStart_keepsInvariant h hs hi⟩
    | oracle o => cases hwork
    | keygen g => cases hwork
    | search n c r =>
      simp only [exec, execBreakmsg, hs]
      exact ⟨_, rfl, h.searchAndEnd ..⟩
  | tabrd rd rs1 =>
    simp only [exec, execTabrd]
    split_ifs
    exacts [⟨_, rfl, h.raise _⟩, ⟨_, rfl, h.finish _⟩]

/-! ## The three agents -/

namespace StateInv

variable {s t : State} (h : StateInv s)
include h

theorem engineMove (ht : s.engineMove = .next t) : StateInv t := by
  rcases s.engineMove_cases with ⟨w, i, hs, hi, heq⟩ | ⟨w, e, -, -, heq⟩ | ⟨-, heq⟩ <;> rw [heq] at ht
  · obtain ⟨u, hu, hinv⟩ := exec_keepsInvariant h hs hi
    cases hu.symm.trans ht
    exact hinv
  · cases ht
    exact h.raise _
  · cases ht
    exact h

/-- R245: an answer keeps the range of the request it answers. -/
theorem receive (v : Int) : StateInv (s.receive v) := by
  rcases s.receive_cases v with ⟨lo, hi, hp, heq⟩ | heq <;> rw [heq]
  · exact { h with portDraws := fun range hr => h.portDraws range (by rw [hp]; exact hr) }
  · exact h

/-- R35, R227: a CMD write makes the engine BUSY only with a legal word. -/
theorem issue (w : Word) : StateInv (s.issue w) := by
  rcases s.issue_cases w with ⟨-, heq⟩ | ⟨-, ⟨i, hi⟩, heq⟩ | ⟨-, -, heq⟩ <;> rw [heq]
  · exact h
  · exact { h with
      doneIdle := by simp
      outcomeIdle := by simp
      busyLegal := by
        rintro _ ⟨⟩
        exact ⟨trivial, i, hi, rfl⟩
      portDraws := by simp [Port.range] }
  · exact { h.raise .opcode with busyLegal := by simp }

theorem writeStatus (w : Word) : StateInv (s.writeStatus w) := by
  unfold State.writeStatus
  split_ifs
  · exact { h with doneIdle := by simp }
  · exact h

theorem writeCtrl (w : Word) : StateInv (s.writeCtrl w) := by
  unfold State.writeCtrl
  split_ifs
  · exact resetCore s
  · exact h.setIe _

/-- R27, R61: ROUNDS changes only while IDLE, when no request is outstanding. -/
theorem setRounds (hs : s.phase = .idle) (r : BitVec 16) : StateInv { s with rounds := r } :=
  { h with
    portDraws := fun range hp => by
      obtain ⟨w, hw, -⟩ := h.portDraws range hp
      simp [hs] at hw }

theorem controlWrite (off : Nat) (w : Word) : StateInv (s.controlWrite off w) := by
  unfold State.controlWrite
  split
  · exact h.issue w
  · exact h.writeStatus w
  · exact h.writeCtrl w
  · split_ifs with hidle
    · exact h.setRounds (State.isIdle_iff.1 hidle) _
    · exact h
  · split_ifs
    · exact { h with }
    · exact h
  · exact h

/-- R65: a write of a word of its window keeps the register below `2^W`. -/
theorem windowWrite (i : Reg) {word : Nat} (w : Word) (hword : word ≤ s.params.limbs.val) :
    StateInv (s.windowWrite i word w) := by
  have hold := fits_iff.1 (h.regsFit i)
  simp only [State.reg, IntReg.natAbs_value] at hold
  unfold State.windowWrite
  split_ifs with hidle hzero
  · exact h.setX i (fits_iff.2 fun hL => by rw [IntReg.natAbs_value]; exact hold hL)
  · refine h.setX i (fits_iff.2 fun hL => ?_)
    rw [IntReg.natAbs_value]
    exact IntReg.mag_withLimb_lt w (by omega) (hold hL)
  · exact h

theorem writeX {i : Reg} {v : Int} (ht : s.writeX i v = .next t) : StateInv t := by
  unfold State.writeX at ht
  split_ifs at ht with hfit hidle <;> cases ht
  · exact (h.setReg i hfit).respond _
  · exact h.respond _

theorem readX (i : Reg) : StateInv (s.readX i) := by
  unfold State.readX
  split_ifs
  · exact h.setOwnFields s.pending _ _
  · exact h.respond _

theorem writeReg {off : Nat} {w : Word} (ht : s.writeReg off w = .next t) : StateInv t := by
  unfold State.writeReg at ht
  split_ifs at ht
  · cases ht
    exact h.respond _
  · cases ht
    exact (h.controlWrite off w).respond _
  · split at ht <;> cases ht
    rename_i i word hslot
    exact (h.windowWrite i w (windowSlot_word_le hslot)).respond _

theorem readReg {off : Nat} (ht : s.readReg off = .next t) : StateInv t := by
  unfold State.readReg at ht
  split at ht
  · cases ht
    exact h.respond _
  · split at ht
    · cases ht
      exact h.respond _
    · split at ht
      · cases ht
      · split at ht <;> cases ht
        · exact h.setOwnFields s.pending _ _
        · exact h.respond _

theorem transact {tr : Transaction} (ht : s.transact tr = .next t) : StateInv t := by
  cases tr with
  | writeX i v => exact h.writeX ht
  | readX i =>
    cases ht
    exact h.readX i
  | writeReg off w => exact h.writeReg ht
  | readReg off => exact h.readReg ht
  | oddAccess width off =>
    cases ht
    exact h.respond _
  | hardReset =>
    cases ht
    exact (resetCore s).respond _

theorem react {e : Event} (ht : s.react e = .next t) : StateInv t := by
  cases e with
  | host tr => exact h.transact ht
  | answer v =>
    cases ht
    exact h.receive v
  | engine => exact h.engineMove ht

theorem step (ht : step s = .next t) : StateInv t := by
  rcases s.takeEvent_cases with ⟨e, rest, -, heq⟩ | ⟨-, heq⟩ <;> simp only [Machine.step, heq] at ht
  · exact (h.setOwnFields rest s.clock s.response).react ht
  · exact (h.setOwnFields s.pending (s.clock + 1) s.response).react ht

end StateInv

end Sys2Proof.Machine

namespace Sys2Proof

open Sys2Proof.Machine

/-- Settles O60: every register is 0, the table is empty and the engine is IDLE with its port free. -/
theorem invariantAtReset : Obligations.InvariantAtReset := StateInv.resetOf

/-- Settles O59, by the kind of the event that is taken off: a host transaction, an answer or a move of the engine. -/
theorem stepKeepsInvariant : Obligations.StepKeepsInvariant := fun _ _ h ht => h.step ht

end Sys2Proof
end

section
/-! What a host sees of registers, engine phase and STATUS, and what one event of it does: which registers a command writes,
the bits of STATUS, the control space, CMD. -/

namespace Sys2Proof.Machine

/-! ## A command's frame on the registers -/

/-- R22: one move of a command writes no register but the command's destinations. -/
theorem Move.sameRegsBut {i : Instr} {s t : State} (h : Move i s t) : SameRegsBut i.destinations s t := by
  intro r hr
  cases h with
  | raised c => rfl
  | ended o => rfl
  | finished ws dest fit => exact State.get_setRegs_other s ws fun w hw heq => hr (heq ▸ dest w hw)
  | goesOn p w => rfl
  | waits p => rfl
  | built rs1 rs2 rs3 e n r hi hr fit => rfl
  | searching rd rs1 rs2 rs3 rs4 e n c hi fit => rfl

/-! ## Engine phase -/

theorem State.busy_iff {s : State} : s.busy = true ↔ ∃ w, s.phase = .busy w := by
  unfold State.busy
  cases s.phase <;> simp

theorem State.faulted_iff {s : State} : s.faulted = true ↔ ∃ c, s.phase = .faulted c := by
  unfold State.faulted
  cases s.phase <;> simp

theorem State.irq_iff {s : State} : s.irq = true ↔ s.ie = true ∧ (s.done = true ∨ s.faulted = true) := by
  simp [State.irq]

theorem State.isIdle_of_ne {s : State} (h : s.phase ≠ .idle) : s.isIdle = false :=
  Bool.eq_false_iff.2 (mt State.isIdle_iff.1 h)

/-! ## The bits of STATUS and PARAM -/

/-- Every field of STATUS fits its bits (R25). -/
theorem State.statusFields_bounds (s : State) : s.busy.toNat ≤ 1 ∧ s.done.toNat ≤ 1 ∧ s.faulted.toNat ≤ 1 ∧
    s.outcome.code < 16 ∧ s.fcode < 16 := by
  refine ⟨Bool.toNat_le _, Bool.toNat_le _, Bool.toNat_le _, ?_, ?_⟩
  · cases s.outcome <;> decide
  · unfold State.fcode
    cases s.phase with
    | idle => exact Nat.zero_lt_succ _
    | busy w => exact Nat.zero_lt_succ _
    | faulted c => cases c <;> decide

/-- The number STATUS holds (R25). -/
theorem State.toNat_statusWord (s : State) : s.statusWord.toNat =
    s.busy.toNat + 2 * s.done.toNat + 4 * s.faulted.toNat + 16 * s.outcome.code + 256 * s.fcode := by
  obtain ⟨hb, hd, hf, ho, hc⟩ := s.statusFields_bounds
  rw [State.statusWord, BitVec.toNat_ofNat]
  omega

/-- The number PARAM holds (R32). -/
theorem toNat_paramWord (p : Params) : (paramWord p).toNat = p.kmax.val + 65536 * p.limbs.val := by
  rw [paramWord, BitVec.toNat_ofNat]
  omega

/-- The number held in the `len` bits from `start` on. -/
theorem toNat_extractLsb' (w : Word) (start len : Nat) :
    (w.extractLsb' start len).toNat = w.toNat / 2 ^ start % 2 ^ len := by
  rw [BitVec.extractLsb'_toNat, Nat.shiftRight_eq_div_pow]

theorem extractLsb'_eq_zero_of_toNat {w : Word} {start len : Nat} (h : w.toNat / 2 ^ start % 2 ^ len = 0) :
    w.extractLsb' start len = 0 :=
  BitVec.eq_of_toNat_eq ((toNat_extractLsb' w start len).trans h)

/-- The low half of a word, extended again (R27). -/
theorem setWidth_setWidth_eq_and (w : Word) : (w.setWidth 16).setWidth 32 = w &&& 0xFFFF := by
  apply BitVec.eq_of_toNat_eq
  have hmask : w.toNat &&& (2 ^ 16 - 1) = w.toNat % 2 ^ 16 := Nat.and_two_pow_sub_one_eq_mod _ 16
  simp only [BitVec.toNat_setWidth, BitVec.toNat_and]
  show _ = w.toNat &&& (2 ^ 16 - 1)
  omega

/-- A bit, from the number of the word that holds it. -/
theorem getLsbD_eq_of_toNat {w : Word} {k : Nat} {b : Bool} (h : w.toNat / 2 ^ k % 2 = b.toNat) :
    w.getLsbD k = b := by
  rw [BitVec.getLsbD, Nat.testBit_eq_decide_div_mod_eq, h]
  cases b <;> rfl

/-! ## The next event -/

/-- The first event lined up is the one that happens (log 3). -/
theorem step_of_pending {s : State} {e : Event} {rest : List Event} (h : s.pending = e :: rest) :
    step s = ({ s with pending := rest } : State).react e := by
  simp [step, State.takeEvent, h]

/-- While BUSY the engine runs the command LASTCMD holds (R31, R35). -/
theorem State.engineMove_of_busy {s : State} {w : Work} {i : Instr} (hs : s.phase = .busy w)
    (hi : decodeWord s.lastcmd = .ok i) : s.engineMove = exec i s := by
  simp [State.engineMove, hs, hi]

/-- An aligned write below offset 0x1000 (R55, R60). -/
theorem step_writeReg {s : State} {off : Nat} {w : Word} {rest : List Event}
    (h : s.pending = .host (.writeReg off w) :: rest) (halign : off % 4 = 0) (hlt : off < 0x1000) :
    step s = .next ((State.controlWrite { s with pending := rest } off w).respond .ack) := by
  rw [step_of_pending h]
  simp [State.react, State.transact, State.writeReg, halign, hlt]

/-- An aligned read below offset 0x1000 changes nothing of the CORE (R55, R60, R67). -/
theorem step_readReg {s : State} {off : Nat} {rest : List Event}
    (h : s.pending = .host (.readReg off) :: rest) (halign : off % 4 = 0) (hlt : off < 0x1000) :
    step s = .next { s with pending := rest, response := .word (s.controlRead off) } := by
  rw [step_of_pending h]
  simp only [State.react, State.transact, State.readReg, halign, hlt]
  rfl

/-- `WriteX` of a value that fits writes its register while IDLE (R60, R61). -/
theorem State.writeX_of_idle {s : State} (hs : s.phase = .idle) (i : Reg) {v : Int} (hv : fits s.params v = true) :
    s.writeX i v = .next ((s.setReg i v).respond .ack) := by
  simp [State.writeX, hv, State.isIdle_iff.2 hs]

/-- `WriteX` is dropped unless IDLE (R61). -/
theorem State.writeX_of_ne_idle {s : State} (hs : s.phase ≠ .idle) (i : Reg) {v : Int}
    (hv : fits s.params v = true) : s.writeX i v = .next (s.respond .ack) := by
  simp [State.writeX, hv, State.isIdle_of_ne hs]

/-- `ReadX` returns the register unless BUSY (R61). -/
theorem State.readX_of_not_busy {s : State} (hs : s.busy = false) (i : Reg) :
    s.readX i = s.respond (.integer (s.reg i)) := by
  simp [State.readX, hs]

/-- `ReadX` while BUSY returns a free value (R61; log 8). -/
theorem State.readX_of_busy {s : State} (hs : s.busy = true) (i : Reg) :
    s.readX i = { s with clock := s.clock + 1, response := .integer (Config.busyInteger s.clock) } := by
  simp [State.readX, hs]

/-- CMD and every unmapped offset read 0 (R55). -/
theorem State.controlRead_eq_zero (s : State) {off : Nat} (h : off = 0x00 ∨ 0x20 ≤ off) : s.controlRead off = 0 := by
  unfold State.controlRead
  split
  case h_8 => rfl
  all_goals omega

/-- Writes from TABLEN's offset on are ignored (R55). -/
theorem State.controlWrite_readOnly (s : State) {off : Nat} (w : Word) (h : 0x14 ≤ off) :
    s.controlWrite off w = s := by
  unfold State.controlWrite
  split
  case h_6 => rfl
  all_goals omega

/-- Unless IDLE, a write of any control register but CTRL is dropped (R24, R61). -/
theorem State.controlWrite_of_ne_idle {s : State} (hs : s.phase ≠ .idle) {off : Nat} (hoff : off ≠ 0x08) (w : Word) :
    s.controlWrite off w = s := by
  have hidle := State.isIdle_of_ne hs
  unfold State.controlWrite
  split
  · rcases s.issue_cases w with ⟨-, heq⟩ | ⟨hs', -⟩ | ⟨hs', -⟩
    · exact heq
    · exact absurd hs' hs
    · exact absurd hs' hs
  · simp [State.writeStatus, hidle]
  · exact absurd rfl hoff
  · simp [hidle]
  · simp [hidle]
  · rfl

/-- ROUNDS keeps bits 15:0 of what is written while IDLE (R27). -/
theorem State.controlWrite_rounds {s : State} (hs : s.phase = .idle) (w : Word) :
    s.controlWrite 0x0C w = { s with rounds := w.setWidth 16 } :=
  if_pos (State.isIdle_iff.2 hs)

/-- KGLIMIT keeps what is written while IDLE (R28). -/
theorem State.controlWrite_kglimit {s : State} (hs : s.phase = .idle) (w : Word) :
    s.controlWrite 0x10 w = { s with kglimit := w } :=
  if_pos (State.isIdle_iff.2 hs)

/-- A write to STATUS while IDLE clears DONE when its bit 1 is 1 (R25). -/
theorem State.controlWrite_status {s : State} (hs : s.phase = .idle) (w : Word) :
    s.controlWrite 0x04 w = { s with done := s.done && !w.getLsbD 1 } := by
  show (if s.isIdle && w.getLsbD 1 then { s with done := false } else s) = _
  rw [State.isIdle_iff.2 hs, Bool.true_and]
  cases w.getLsbD 1 <;> simp

/-- A write to CTRL with bit 1 clear sets IE, in every phase (R26, R61). -/
theorem State.controlWrite_ctrl (s : State) {w : Word} (hbit : w.getLsbD 1 = false) :
    s.controlWrite 0x08 w = { s with ie := w.getLsbD 0 } :=
  if_neg (Bool.eq_false_iff.1 hbit)

/-! ## The word of a table row -/

/-- R64, R80: the four bytes of a number below `2^32`, lowest first, are the bytes of its word. -/
theorem wordOfBytes_div (n : Nat) (h : n < 2 ^ 32) :
    wordOfBytes (BitVec.ofNat 8 (n / 256 ^ 0)) (BitVec.ofNat 8 (n / 256 ^ 1)) (BitVec.ofNat 8 (n / 256 ^ 2))
      (BitVec.ofNat 8 (n / 256 ^ 3)) = BitVec.ofNat 32 n := by
  apply BitVec.eq_of_toNat_eq
  simp only [wordOfBytes, BitVec.toNat_append]
  rw [← Nat.shiftLeft_add_eq_or_of_lt (BitVec.isLt _), ← Nat.shiftLeft_add_eq_or_of_lt (BitVec.isLt _),
    ← Nat.shiftLeft_add_eq_or_of_lt (BitVec.isLt _)]
  simp only [Nat.shiftLeft_eq, BitVec.toNat_ofNat]
  omega

theorem ofNat_mod_two_pow (n : Nat) : BitVec.ofNat 32 (n % 2 ^ 32) = BitVec.ofNat 32 n :=
  BitVec.eq_of_toNat_eq (by simp)

/-- A 32-bit row of the opcode table is decoded as its word. -/
theorem decodeWord_of_decodeTableWord {w : Nat} {i : Instr} (h : decodeTableWord 32 w = some i) :
    decodeWord (BitVec.ofNat 32 w) = .ok i := by
  have hword := wordOfBytes_div (w % 2 ^ 32) (Nat.mod_lt _ (Nat.two_pow_pos _))
  have hrow : decodeTableWord 32 w = (decodeWord (BitVec.ofNat 32 w)).toOption := by
    rw [← ofNat_mod_two_pow, ← hword]
    rfl
  rw [hrow] at h
  cases hd : decodeWord (BitVec.ofNat 32 w) with
  | ok j => rw [hd] at h; cases h; rfl
  | error e => rw [hd] at h; cases h

end Sys2Proof.Machine

namespace Sys2Proof

open Sys2Proof.Machine

/-- Settles O45: every move of a command is one of those of `Move`. -/
theorem onlyDestinationsChange : Obligations.OnlyDestinationsChange := by
  intro i s t ht
  obtain ⟨u, hu, hmove⟩ := exec_move i s
  cases hu.symm.trans ht
  exact hmove.sameRegsBut

/-- Settles O51: the fields of STATUS are digits of the number it holds. -/
theorem statusWordAndInterrupt : Obligations.StatusWordAndInterrupt := by
  intro s
  obtain ⟨hb, hd, hf, ho, hc⟩ := s.statusFields_bounds
  have hword := s.toNat_statusWord
  have houtcome : (s.statusWord.extractLsb' 4 4).toNat = s.outcome.code := by
    rw [toNat_extractLsb']
    omega
  have hfcode : (s.statusWord.extractLsb' 8 4).toNat = s.fcode := by
    rw [toNat_extractLsb']
    omega
  refine ⟨getLsbD_eq_of_toNat ?_, getLsbD_eq_of_toNat ?_, getLsbD_eq_of_toNat ?_, getLsbD_eq_of_toNat ?_,
    State.busy_iff, State.faulted_iff, ?_, ?_, extractLsb'_eq_zero_of_toNat ?_, State.irq_iff⟩
  · omega
  · omega
  · omega
  · rw [Bool.toNat_false]
    omega
  · rw [houtcome]
    cases s.outcome <;> rfl
  · rw [hfcode]
    unfold State.fcode
    cases s.phase with
    | idle => rfl
    | busy w => rfl
    | faulted c => cases c <;> rfl
  · omega

/-- Settles O53: each transaction by the engine phase, and each mapped offset's word. -/
theorem hostReadsAndWritesRegisters : Obligations.HostReadsAndWritesRegisters := by
  refine fun s i rest => ⟨fun v hp hv => ⟨fun hs => ?_, fun hs => ?_⟩, fun hp => ⟨fun hs => ?_, fun hs => ?_⟩,
    fun off halign hlt hp => ?_⟩
  · refine ⟨_, (step_of_pending hp).trans (State.writeX_of_idle (s := { s with pending := rest }) hs i hv), ?_,
      fun r hr => ?_, rfl⟩
    · exact (State.reg_setReg _ i i v).trans (if_pos rfl)
    · exact State.get_setReg_other _ v hr
  · exact (step_of_pending hp).trans (State.writeX_of_ne_idle (s := { s with pending := rest }) hs i hv)
  · exact (step_of_pending hp).trans
      (congrArg Host.Outcome.next (State.readX_of_not_busy (s := { s with pending := rest }) hs i))
  · exact ⟨_, (step_of_pending hp).trans
      (congrArg Host.Outcome.next (State.readX_of_busy (s := { s with pending := rest }) hs i))⟩
  · refine ⟨_, step_readReg hp halign hlt, ?_, ?_, ?_, ?_, ?_, ?_, ?_, s.controlRead_eq_zero⟩ <;> rintro rfl
    · rfl
    · rfl
    · exact BitVec.toNat_setWidth_of_le (show 16 ≤ 32 by decide)
    · rfl
    · rfl
    · rfl
    · have hparam := toNat_paramWord s.params
      show ((paramWord s.params).extractLsb' 0 8).toNat = _ ∧ (paramWord s.params).extractLsb' 8 8 = 0 ∧
        ((paramWord s.params).extractLsb' 16 16).toNat = _
      rw [toNat_extractLsb', toNat_extractLsb', hparam]
      exact ⟨by omega, extractLsb'_eq_zero_of_toNat (by omega), by omega⟩

/-- Settles O4: the event taken off is the engine's, and LASTCMD decodes to the command. -/
theorem stepRunsDecodedCommand : Obligations.StepRunsDecodedCommand := by
  refine ⟨fun s w i rest hs hp hi => ?_, fun s w i hi => ?_⟩
  · exact (step_of_pending hp).trans (State.engineMove_of_busy hs hi)
  · have hw : BitVec.ofNat 32 (w % 2 ^ 32) = BitVec.ofNat 32 w := ofNat_mod_two_pow w
    rw [State.withFetchWord, hw, step_of_pending (e := .engine) (rest := s.pending) rfl]
    exact State.engineMove_of_busy (s := s.accept _) rfl (decodeWord_of_decodeTableWord hi)

/-- Settles O5: a CMD write while IDLE is accepted or refused by the decoder. -/
theorem idleCommandWrite : Obligations.IdleCommandWrite := by
  intro s w rest hs hp
  refine ⟨_, step_writeReg hp rfl (by decide), ?_⟩
  rcases State.issue_cases { s with pending := rest } w with ⟨hne, -⟩ | ⟨-, ⟨i, hi⟩, heq⟩ | ⟨-, ⟨e, he⟩, heq⟩
  · exact absurd hs hne
  · simp only [State.controlWrite, heq]
    refine ⟨rfl, rfl, rfl, rfl, rfl, rfl, rfl, rfl, rfl, rfl, rfl, rfl, fun _ => rfl, fun ⟨e, he⟩ => ?_⟩
    cases hi.symm.trans he
  · simp only [State.controlWrite, heq]
    refine ⟨rfl, rfl, rfl, rfl, rfl, rfl, rfl, rfl, rfl, rfl, rfl, rfl, fun ⟨i, hi⟩ => ?_, fun _ => rfl⟩
    cases hi.symm.trans he

/-- Settles O6. -/
theorem commandDroppedUnlessIdle : Obligations.CommandDroppedUnlessIdle := by
  intro s w rest hs hp
  rw [step_writeReg hp rfl (by decide),
    State.controlWrite_of_ne_idle (s := { s with pending := rest }) hs (by decide)]
  rfl

/-- Settles O49. -/
theorem resetValues : Obligations.ResetValues :=
  ⟨fun p => ⟨State.reg_resetOf p, rfl, rfl, rfl, rfl, rfl, rfl, rfl, rfl, rfl, rfl⟩, rfl⟩

/-- Settles O52: BUSY and FAULT are different phases, and DONE is 1 only in a third. -/
theorem atMostOneStatusBit : Obligations.AtMostOneStatusBit := by
  intro s h
  cases hs : s.phase with
  | idle =>
    have hdone := s.done.toNat_le
    simpa [State.busy, State.faulted, hs] using hdone
  | busy w => simp [State.busy, State.faulted, hs, h.done_eq_false hs]
  | faulted c =>
    have hdone : s.done = false := by
      by_contra hd
      simpa [hs] using h.doneIdle (by simpa using hd)
    simp [State.busy, State.faulted, hs, hdone]

/-- Settles O54: each register's write by the engine phase. -/
theorem configurationWrites : Obligations.ConfigurationWrites := by
  intro s w rest
  have hdropped {off : Nat} (hs : s.phase ≠ .idle) (hoff : off ≠ 0x08) :
      State.controlWrite { s with pending := rest } off w = { s with pending := rest } :=
    State.controlWrite_of_ne_idle (s := { s with pending := rest }) hs hoff w
  refine ⟨fun hp => ⟨_, step_writeReg hp rfl (by decide), ?_⟩, fun hp => ⟨_, step_writeReg hp rfl (by decide), ?_⟩,
    fun hp => ⟨_, step_writeReg hp rfl (by decide), ?_⟩, fun hp hbit => ?_, fun off halign hlow hlt hp => ?_⟩
  · by_cases hs : s.phase = .idle
    · rw [State.controlWrite_rounds (s := { s with pending := rest }) hs]
      refine ⟨rfl, fun _ => ?_, fun hne => absurd hs hne⟩
      exact setWidth_setWidth_eq_and w
    · rw [hdropped hs (by decide)]
      exact ⟨rfl, fun hs' => absurd hs' hs, fun _ => rfl⟩
  · by_cases hs : s.phase = .idle
    · rw [State.controlWrite_kglimit (s := { s with pending := rest }) hs]
      exact ⟨rfl, fun _ => rfl, fun hne => absurd hs hne⟩
    · rw [hdropped hs (by decide)]
      exact ⟨rfl, fun hs' => absurd hs' hs, fun _ => rfl⟩
  · by_cases hs : s.phase = .idle
    · rw [State.controlWrite_status (s := { s with pending := rest }) hs]
      refine ⟨rfl, fun _ hbit => ?_, fun hkeep => ?_⟩
      · show (s.done && !w.getLsbD 1) = false
        rw [hbit, Bool.not_true, Bool.and_false]
      · show (s.done && !w.getLsbD 1) = s.done
        rw [hkeep.resolve_left (not_not_intro hs), Bool.not_false, Bool.and_true]
    · rw [hdropped hs (by decide)]
      exact ⟨rfl, fun hs' => absurd hs' hs, fun _ => rfl⟩
  · rw [step_writeReg hp rfl (by decide), State.controlWrite_ctrl _ hbit]
    rfl
  · rw [step_writeReg hp halign hlt, State.controlWrite_readOnly _ w hlow]
    rfl

end Sys2Proof
end

section
/-! The table and the search: what `modpow` and `find_message` compute, the table that `build_table` writes, what every
command keeps of the control registers and of the table, and the commands BUILDTAB, TABRD and BREAK. -/

namespace Sys2Proof.Machine

/-! ## `modpow` -/

theorem lt_two_pow_bitlen (v : Nat) : v < 2 ^ bitlen v := by
  unfold bitlen
  split
  · omega
  · exact Nat.lt_log2_self

/-- The loop of `modpow` with the exponent's bits from `i` on already used (R102). -/
theorem modpowLoop_eq (b e m i : Nat) : modpowLoop b e m i (b ^ (e / 2 ^ i) % m) = b ^ e % m := by
  induction i with
  | zero => simp [modpowLoop]
  | succ i ih =>
    have hbits : e / 2 ^ i = e / 2 ^ (i + 1) + e / 2 ^ (i + 1) + bit e i := by
      rw [pow_succ, ← Nat.div_div_eq_div_mul, bit]
      omega
    have hsquare : modmul (b ^ (e / 2 ^ (i + 1)) % m) (b ^ (e / 2 ^ (i + 1)) % m) m
        = b ^ (e / 2 ^ (i + 1) + e / 2 ^ (i + 1)) % m := by
      rw [modmul, ← Nat.mul_mod, ← pow_add]
    rw [modpowLoop, hsquare, ← ih, hbits]
    rcases Nat.mod_two_eq_zero_or_one (e / 2 ^ i) with hbit | hbit <;> rw [← bit] at hbit
    · rw [hbit, if_neg Nat.zero_ne_one, add_zero]
    · rw [hbit, if_pos rfl, modmul, Nat.mod_mul_mod, ← pow_succ]

/-- R102, R103: `modpow` is the power's residue. -/
theorem modpow_eq (b e m : Nat) : modpow b e m = b ^ e % m := by
  have h := modpowLoop_eq b e m (bitlen e)
  rwa [Nat.div_eq_of_lt (lt_two_pow_bitlen e), pow_zero] at h

/-! ## `find_message` -/

/-- R113: a present inverse is reduced, hence not negative. -/
theorem modinv_nonneg {a m v : Int} (hm : 0 < m) (h : modinv a m = some v) : 0 ≤ v := by
  simp only [modinv] at h
  split_ifs at h
  cases h
  exact Int.emod_nonneg _ hm.ne'

/-- `(i, j)` matches exactly when `T[j]` is the value that the search's row `i` looks for (R185, R187). -/
theorem matches_iff_eq_modmul {T : Nat → Nat} {n c i j : Nat} {inv : Int} (hn : 0 < n) (h : modinv (T i) n = some inv) :
    Matches T n c i j ↔ T j = modmul c inv.toNat n := by
  have hinv : ((inv.toNat : Nat) : Int) = inv := Int.toNat_of_nonneg (modinv_nonneg (by omega) h)
  have hcast : ((modmul c inv.toNat n : Nat) : Int) = c * inv % n := by
    rw [modmul, Int.natCast_mod, Int.natCast_mul, hinv]
  rw [← Int.natCast_inj, hcast]
  constructor
  · rintro ⟨inv', hinv', heq⟩
    cases h.symm.trans hinv'
    exact heq
  · exact fun heq => ⟨inv, h, heq⟩

/-- The inner loop of `find_message` finds the first index that holds the value, or there is none (R185). -/
theorem scanRow_cases (T : Nat → Nat) (t count j : Nat) :
    (∃ k, scanRow T t count j = some k ∧ j ≤ k ∧ k < j + count ∧ T k = t ∧ ∀ l, j ≤ l → l < k → T l ≠ t) ∨
    (scanRow T t count j = none ∧ ∀ l, j ≤ l → l < j + count → T l ≠ t) := by
  induction count generalizing j with
  | zero => exact .inr ⟨rfl, fun l hl hl' => by omega⟩
  | succ count ih =>
    rw [scanRow]
    split
    · next hj => exact .inl ⟨j, rfl, le_rfl, by omega, hj, fun l hl hl' => by omega⟩
    · next hj =>
      have hfrom {l : Nat} (hl : j ≤ l) (hrest : j + 1 ≤ l → T l ≠ t) : T l ≠ t := by
        rcases hl.eq_or_lt with rfl | hlt
        · exact hj
        · exact hrest hlt
      rcases ih (j + 1) with ⟨k, hk, hjk, hkr, htk, hfirst⟩ | ⟨hnone, hall⟩
      · exact .inl ⟨k, hk, by omega, by omega, htk, fun l hl hlk => hfrom hl fun hl' => hfirst l hl' hlk⟩
      · exact .inr ⟨hnone, fun l hl hlr => hfrom hl fun hl' => hall l hl' (by omega)⟩

/-- `FirstMatch` for the rows from `b` on. -/
def FirstMatchFrom (T : Nat → Nat) (n c r b i j : Nat) : Prop :=
  b ≤ i ∧ i < r ∧ 1 ≤ j ∧ j < r ∧ Matches T n c i j ∧
    ∀ i' j', b ≤ i' → i' < r → 1 ≤ j' → j' < r → Matches T n c i' j' → i < i' ∨ i = i' ∧ j ≤ j'

/-- A row without a match can be left out. -/
theorem FirstMatchFrom.of_succ {T : Nat → Nat} {n c r b i j : Nat} (h : FirstMatchFrom T n c r (b + 1) i j)
    (hrow : ∀ j', 1 ≤ j' → j' < r → ¬Matches T n c b j') : FirstMatchFrom T n c r b i j := by
  obtain ⟨hbi, hir, hj, hjr, hm, hfirst⟩ := h
  refine ⟨by omega, hir, hj, hjr, hm, fun i' j' hi' hir' hj' hjr' hm' => ?_⟩
  rcases hi'.eq_or_lt with rfl | hlt
  · exact absurd hm' (hrow j' hj' hjr')
  · exact hfirst i' j' hlt hir' hj' hjr' hm'

/-- One iteration of the outer loop returns the row's first match, or the row has none and the next one follows (R185). -/
theorem scanTable_succ_cases (T : Nat → Nat) {n : Nat} (c : Nat) {r : Nat} (hn : 0 < n) (hr : 1 ≤ r) (count b : Nat) :
    (∃ j, 1 ≤ j ∧ j < r ∧ Matches T n c b j ∧ (∀ j', 1 ≤ j' → Matches T n c b j' → j ≤ j') ∧
      scanTable T n c r (count + 1) b = some (b * j % n)) ∨
    ((∀ j, 1 ≤ j → j < r → ¬Matches T n c b j) ∧ scanTable T n c r (count + 1) b = scanTable T n c r count (b + 1)) := by
  cases hinv : modinv (T b) n with
  | none =>
    refine .inr ⟨fun j _ _ ⟨inv, hinv', _⟩ => ?_, by simp only [scanTable, hinv]⟩
    cases hinv.symm.trans hinv'
  | some inv =>
    have hmatch (j : Nat) := matches_iff_eq_modmul (c := c) (j := j) hn hinv
    rcases scanRow_cases T (modmul c inv.toNat n) (r - 1) 1 with ⟨j, heq, hj, hjr, htj, hfirst⟩ | ⟨heq, hall⟩
    · refine .inl ⟨j, hj, by omega, (hmatch j).2 htj, fun j' hj' hm => ?_, by simp only [scanTable, hinv, heq]⟩
      exact Nat.le_of_not_lt fun hlt => hfirst j' hj' hlt ((hmatch j').1 hm)
    · refine .inr ⟨fun j hj hjr hm => ?_, by simp only [scanTable, hinv, heq]⟩
      exact hall j hj (by omega) ((hmatch j).1 hm)

/-- The outer loop of `find_message` returns the product of the first match of its rows, or they hold no match (R185). -/
theorem scanTable_cases (T : Nat → Nat) {n : Nat} (c : Nat) {r : Nat} (hn : 0 < n) (count b : Nat) (hr : b + count = r) :
    (∃ i j, FirstMatchFrom T n c r b i j ∧ scanTable T n c r count b = some (i * j % n)) ∨
    ((¬∃ i j, b ≤ i ∧ i < r ∧ 1 ≤ j ∧ j < r ∧ Matches T n c i j) ∧ scanTable T n c r count b = none) := by
  induction count generalizing b with
  | zero => exact .inr ⟨fun ⟨i, j, hi, hir, _⟩ => by omega, rfl⟩
  | succ count ih =>
    rcases scanTable_succ_cases T c hn (show 1 ≤ r by omega) count b with ⟨j, hj, hjr, hm, hfirst, heq⟩ | ⟨hrow, heq⟩
    · refine .inl ⟨b, j, ⟨le_rfl, by omega, hj, hjr, hm, fun i' j' hi' _ hj' _ hm' => ?_⟩, heq⟩
      rcases hi'.eq_or_lt with rfl | hlt
      · exact .inr ⟨rfl, hfirst j' hj' hm'⟩
      · exact .inl hlt
    · rw [heq]
      rcases ih (b + 1) (by omega) with ⟨i, j, hfirst, hsome⟩ | ⟨hno, hnone⟩
      · exact .inl ⟨i, j, hfirst.of_succ hrow, hsome⟩
      · refine .inr ⟨fun ⟨i, j, hi, hir, hj, hjr, hm⟩ => ?_, hnone⟩
        rcases hi.eq_or_lt with rfl | hlt
        · exact hrow j hj hjr hm
        · exact hno ⟨i, j, hlt, hir, hj, hjr, hm⟩

/-- R187: `find_message` returns the product of the first match, or there is no match. -/
theorem findMessage_cases (T : Nat → Nat) {n : Nat} (c r : Nat) (hn : 0 < n) :
    (∃ i j, FirstMatch T n c r i j ∧ findMessage T n c r = some (i * j % n)) ∨
    ((¬∃ i j, 1 ≤ i ∧ i < r ∧ 1 ≤ j ∧ j < r ∧ Matches T n c i j) ∧ findMessage T n c r = none) := by
  rcases Nat.eq_zero_or_pos r with rfl | hr
  · exact .inr ⟨fun ⟨i, j, _, hir, _⟩ => by omega, rfl⟩
  · exact scanTable_cases T c hn (r - 1) 1 (by omega)

/-- There is at most one first match (R187). -/
theorem FirstMatch.unique {T : Nat → Nat} {n c r i j i' j' : Nat} (h : FirstMatch T n c r i j)
    (h' : FirstMatch T n c r i' j') : i = i' ∧ j = j' := by
  obtain ⟨hi, hir, hj, hjr, hm, hfirst⟩ := h
  obtain ⟨hi', hir', hj', hjr', hm', hfirst'⟩ := h'
  have := hfirst i' j' hi' hir' hj' hjr' hm'
  have := hfirst' i j hi hir hj hjr hm
  omega

theorem findMessage_of_firstMatch {T : Nat → Nat} {n c r i j : Nat} (hn : 0 < n) (h : FirstMatch T n c r i j) :
    findMessage T n c r = some (i * j % n) := by
  rcases findMessage_cases T c r hn with ⟨i', j', h', heq⟩ | ⟨hno, -⟩
  · obtain ⟨rfl, rfl⟩ := h.unique h'
    exact heq
  · obtain ⟨hi, hir, hj, hjr, hm, -⟩ := h
    exact absurd ⟨i, j, hi, hir, hj, hjr, hm⟩ hno

theorem findMessage_of_no_match {T : Nat → Nat} {n c r : Nat} (hn : 0 < n)
    (h : ¬∃ i j, 1 ≤ i ∧ i < r ∧ 1 ≤ j ∧ j < r ∧ Matches T n c i j) : findMessage T n c r = none := by
  rcases findMessage_cases T c r hn with ⟨i, j, ⟨hi, hir, hj, hjr, hm, -⟩, -⟩ | ⟨-, heq⟩
  · exact absurd ⟨i, j, hi, hir, hj, hjr, hm⟩ h
  · exact heq

theorem scanRow_congr {T T' : Nat → Nat} (t : Nat) {count j : Nat} (h : ∀ k, k < j + count → T k = T' k) :
    scanRow T t count j = scanRow T' t count j := by
  induction count generalizing j with
  | zero => rfl
  | succ count ih => rw [scanRow, scanRow, h j (by omega), ih fun k hk => h k (by omega)]

/-- The search reads no entry from its width on (R185). -/
theorem findMessage_congr {T T' : Nat → Nat} (n c : Nat) {r : Nat} (h : ∀ k, k < r → T k = T' k) :
    findMessage T n c r = findMessage T' n c r := by
  rcases Nat.eq_zero_or_pos r with rfl | hr
  · rfl
  have hrow (t : Nat) : scanRow T t (r - 1) 1 = scanRow T' t (r - 1) 1 := scanRow_congr t fun k hk => h k (by omega)
  have hscan (count b : Nat) (hb : b + count = r) : scanTable T n c r count b = scanTable T' n c r count b := by
    induction count generalizing b with
    | zero => rfl
    | succ count ih => simp only [scanTable, h b (by omega), ih (b + 1) (by omega), hrow]
  exact hscan (r - 1) 1 (by omega)

/-! ## The table that `build_table` writes -/

/-- R183: every entry of a table for a modulus that fits the instance fits it too. -/
theorem tableFits_of_fits {p : Params} {n : Nat} (e r : Nat) (hn : 0 < n) (h : fits p n = true) :
    tableFits p e n r = true := by
  simp only [tableFits, tableEntries, List.all_cons, List.all_map, Bool.and_eq_true, List.all_eq_true]
  refine ⟨fits_zero p, fun k _ => fits_of_natAbs_le ?_ h⟩
  show modpow (k + 1) e n ≤ n
  rw [modpow_eq]
  exact (Nat.mod_lt _ hn).le

section
variable (s : State) (e n : Nat) {r k : Nat}

/-- R53: entry 0 is 0. -/
@[simp] theorem State.read_buildTable_zero (r : Nat) : Table.read? (s.buildTable e n r).table 0 = some 0 :=
  Table.read_writeFrom s.table 0 0 (tableEntries e n r)

/-- R53: entry `k` is `k^e mod n`. -/
theorem State.read_buildTable_of_lt (hk : 1 ≤ k) (hr : k < r) :
    Table.read? (s.buildTable e n r).table k = some (k ^ e % n) := by
  obtain ⟨i, rfl⟩ : ∃ i, k = i + 1 := ⟨k - 1, by omega⟩
  have hentry : (tableEntries e n r)[i + 1]? = some ((i + 1) ^ e % n) := by
    rw [tableEntries, List.getElem?_cons_succ, List.getElem?_map, List.getElem?_range (by omega), Option.map_some,
      modpow_eq]
  have hread := Table.read_writeFrom s.table 0 (i + 1) (tableEntries e n r)
  rwa [hentry, zero_add] at hread

/-- R53: entries from the width on keep what they held. -/
theorem State.read_buildTable_of_le (hr : 1 ≤ r) (hk : r ≤ k) :
    Table.read? (s.buildTable e n r).table k = Table.read? s.table k := by
  have hentry : (tableEntries e n r)[k]? = none := List.getElem?_eq_none (by rwa [length_tableEntries e n r hr])
  have hread := Table.read_writeFrom s.table 0 k (tableEntries e n r)
  rwa [hentry, zero_add] at hread

theorem State.memRead_buildTable (hr : k < r) :
    (s.buildTable e n r).memRead k = if k = 0 then 0 else k ^ e % n := by
  rcases Nat.eq_zero_or_pos k with rfl | hk
  · rw [State.memRead, State.read_buildTable_zero]
    rfl
  · rw [State.memRead, State.read_buildTable_of_lt s e n hk hr, if_neg hk.ne']
    rfl

end

/-! ## The end of a command -/

/-- R50: what a command may change are the registers, STATUS, the table with TABLEN, and the port. -/
theorem SameControls.of_frame {s t : State}
    (h : t = { s with
      x := t.x, phase := t.phase, done := t.done, outcome := t.outcome, tablen := t.tablen, table := t.table,
      port := t.port }) : SameControls s t := by
  constructor <;> rw [h]

theorem SameControls.trans {s t u : State} (h : SameControls s t) (h' : SameControls t u) : SameControls s u where
  params := h'.params.trans h.params
  ie := h'.ie.trans h.ie
  rounds := h'.rounds.trans h.rounds
  kglimit := h'.kglimit.trans h.kglimit
  lastcmd := h'.lastcmd.trans h.lastcmd
  pending := h'.pending.trans h.pending
  clock := h'.clock.trans h.clock
  response := h'.response.trans h.response

theorem SameTable.refl (s : State) : SameTable s s := ⟨rfl, fun _ => rfl⟩

/-- R221: a command that completes without results writes no register. -/
theorem State.completes_complete (s : State) (o : OutcomeCode) (ds : List Reg) : Completes o ds s (s.complete o) where
  phase := rfl
  done := rfl
  outcome := rfl
  port := rfl
  controls := .of_frame rfl
  regs _ _ := rfl
  table := .refl s

/-- R231: one result that fits is written in its destination, and nothing else is written. -/
theorem State.completes_finish (s : State) (rd : Reg) {v : Int} (h : fits s.params v = true) :
    Completes .ok [rd] s (s.finish [(rd, v)]) ∧ (s.finish [(rd, v)]).reg rd = v := by
  rw [s.finish_of_fits [(rd, v)] (by simpa using h)]
  refine ⟨⟨rfl, rfl, rfl, rfl, .of_frame rfl, fun r hr => ?_, .refl s⟩, (s.reg_setReg rd rd v).trans (if_pos rfl)⟩
  exact s.get_setReg_other v (by simpa using hr)

/-- The search's result is written in its destination (R188). -/
theorem completes_searchAndEnd_of_some (rd : Reg) {n c r v : Nat} {s : State}
    (h : findMessage s.memRead n c r = some v) (hv : fits s.params v = true) :
    Completes .ok [rd] s (searchAndEnd rd n c r s) ∧ (searchAndEnd rd n c r s).reg rd = v := by
  have heq : searchAndEnd rd n c r s = s.finish [(rd, (v : Int))] := by simp [searchAndEnd, h]
  rw [heq]
  exact s.completes_finish rd hv

/-- Without a match the search writes nothing (R188). -/
theorem completes_searchAndEnd_of_none (rd : Reg) {n c r : Nat} {s : State}
    (h : findMessage s.memRead n c r = none) (ds : List Reg) :
    Completes .notFound ds s (searchAndEnd rd n c r s) := by
  have heq : searchAndEnd rd n c r s = s.complete .notFound := by simp [searchAndEnd, h]
  rw [heq]
  exact s.completes_complete .notFound ds

/-- The result of a search modulo `n` fits where `n` fits. -/
theorem fits_mod {p : Params} {n : Nat} (hn : 0 < n) (h : fits p n = true) (a : Nat) :
    fits p ((a % n : Nat) : Int) = true :=
  fits_of_natAbs_le (v := (n : Int)) (Nat.mod_lt a hn).le h

/-- With a modulus that fits, the search always completes (R188, R231). -/
theorem completes_searchAndEnd (rd : Reg) {n : Nat} (c r : Nat) {s : State} (hn : 0 < n) (h : fits s.params n = true) :
    ∃ o, Completes o [rd] s (searchAndEnd rd n c r s) := by
  rcases findMessage_cases s.memRead c r hn with ⟨i, j, -, heq⟩ | ⟨-, heq⟩
  · obtain ⟨hok, -⟩ := completes_searchAndEnd_of_some rd heq (fits_mod hn h (i * j))
    exact ⟨.ok, hok⟩
  · exact ⟨.notFound, completes_searchAndEnd_of_none rd heq [rd]⟩

/-! ## What a command keeps -/

/-- Whatever a command's move answers is one of the states of `Move`. -/
theorem Move.of_exec {i : Instr} {s t : State} (h : exec i s = .next t) : Move i s t := by
  obtain ⟨u, hu, hmove⟩ := exec_move i s
  cases hu.symm.trans h
  exact hmove

/-- R50: one move of a command changes no control register. -/
theorem Move.sameControls {i : Instr} {s t : State} (h : Move i s t) : SameControls s t := by
  cases h with
  | raised c => exact .of_frame rfl
  | ended o => exact .of_frame rfl
  | finished ws dest fit =>
    rw [s.setRegs_frame ws]
    exact .of_frame rfl
  | goesOn p w => exact .of_frame rfl
  | waits p => exact .of_frame rfl
  | built rs1 rs2 rs3 e n r hi hr fit => exact .of_frame rfl
  | searching rd rs1 rs2 rs3 rs4 e n c hi fit => exact .of_frame rfl

/-- R50: one move of a command keeps the table and TABLEN, unless it is BUILDTAB's or BREAK's, the latter over `2^bit_width`
entries. -/
theorem Move.table_cases {i : Instr} {s t : State} (h : Move i s t) :
    SameTable s t ∨ (∃ rs1 rs2 rs3, i = .buildtab rs1 rs2 rs3) ∨
    ∃ rd rs1 rs2 rs3 rs4 e n, i = .breakmsg rd rs1 rs2 rs3 rs4 ∧
      t.table = (s.buildTable e n (2 ^ (s.reg rs4).toNat)).table := by
  cases h with
  | raised c => exact .inl (.refl s)
  | ended o => exact .inl (.refl s)
  | finished ws dest fit =>
    rw [s.setRegs_frame ws]
    exact .inl (.refl s)
  | goesOn p w => exact .inl (.refl s)
  | waits p => exact .inl (.refl s)
  | built rs1 rs2 rs3 e n r hi hr fit => exact .inr (.inl ⟨rs1, rs2, rs3, hi⟩)
  | searching rd rs1 rs2 rs3 rs4 e n c hi fit => exact .inr (.inr ⟨rd, rs1, rs2, rs3, rs4, e, n, hi, rfl⟩)

/-- R50: a command that is neither BUILDTAB nor BREAK keeps the table and TABLEN. -/
theorem Move.sameTable {i : Instr} {s t : State} (h : Move i s t) (hi : i.writesTable = false) : SameTable s t := by
  rcases h.table_cases with hsame | ⟨rs1, rs2, rs3, rfl⟩ | ⟨rd, rs1, rs2, rs3, rs4, e, n, rfl, -⟩
  · exact hsame
  · cases hi
  · cases hi

/-- The search, which BREAK shares with FINDMSG, keeps the table (R188). -/
theorem sameTable_searchAndEnd (rd : Reg) (n c r : Nat) (s : State) : SameTable s (searchAndEnd rd n c r s) := by
  have hmove : Move (.findmsg rd 0 0 0) s (searchAndEnd rd n c r s) :=
    searchAndEnd_move rd n c r s (List.mem_singleton_self rd)
  exact hmove.sameTable rfl

/-! ## BUILDTAB and BREAK -/

/-- BUILDTAB raises a fault, or its width is at least 1 and its table is written (R181). -/
theorem execBuildtab_cases (rs1 rs2 rs3 : Reg) (s : State) :
    (∃ c, execBuildtab rs1 rs2 rs3 s = .next (s.raise c)) ∨
    (1 ≤ s.reg rs3 ∧ execBuildtab rs1 rs2 rs3 s =
      .next ((s.buildTable (s.reg rs1).toNat (s.reg rs2).toNat (s.reg rs3).toNat).complete .ok)) := by
  simp only [execBuildtab]
  split_ifs
  · exact .inl ⟨_, rfl⟩
  · exact .inl ⟨_, rfl⟩
  · exact .inl ⟨_, rfl⟩
  · exact .inr ⟨by omega, rfl⟩
  · exact .inl ⟨_, rfl⟩

/-- BUILDTAB with operands in order writes its table (R181). -/
theorem exec_buildtab {rs1 rs2 rs3 : Reg} {s : State} (hn : 0 < s.reg rs2) (he : 0 ≤ s.reg rs1) (hr : 1 ≤ s.reg rs3)
    (hsize : s.reg rs3 ≤ tableSize s.params) (hfit : fits s.params (s.reg rs2) = true) :
    exec (.buildtab rs1 rs2 rs3) s =
      .next ((s.buildTable (s.reg rs1).toNat (s.reg rs2).toNat (s.reg rs3).toNat).complete .ok) := by
  have htable : tableFits s.params (s.reg rs1).toNat (s.reg rs2).toNat (s.reg rs3).toNat = true :=
    tableFits_of_fits _ _ (by omega) (by rwa [Int.toNat_of_nonneg hn.le])
  rw [exec, execBuildtab, if_neg (by omega), if_neg (by omega), if_neg (by omega), if_pos htable]

/-- BREAK after its first move: the table is written, the search is to come (R186; log 5). -/
def State.breakSearching (s : State) (rs1 rs2 rs3 rs4 : Reg) : State :=
  (s.buildTable (s.reg rs1).toNat (s.reg rs2).toNat (2 ^ (s.reg rs4).toNat)).continueWith
    (.search (s.reg rs2).toNat (s.reg rs3).toNat (2 ^ (s.reg rs4).toNat))

/-- BREAK's first move with operands in order (R186). -/
theorem exec_breakmsg_start (rd : Reg) {rs1 rs2 rs3 rs4 : Reg} {s : State} (hs : s.phase = .busy .start)
    (hn : 0 < s.reg rs2) (he : 0 ≤ s.reg rs1) (hc : 0 ≤ s.reg rs3) (hk : 0 ≤ s.reg rs4)
    (hkmax : s.reg rs4 ≤ s.params.kmax.val) (hfit : fits s.params (s.reg rs2) = true) :
    exec (.breakmsg rd rs1 rs2 rs3 rs4) s = .next (s.breakSearching rs1 rs2 rs3 rs4) := by
  have htable : tableFits s.params (s.reg rs1).toNat (s.reg rs2).toNat (2 ^ (s.reg rs4).toNat) = true :=
    tableFits_of_fits _ _ (by omega) (by rwa [Int.toNat_of_nonneg hn.le])
  simp only [exec, execBreakmsg, hs]
  rw [breakStart, if_neg (by omega), if_neg (by omega), if_neg (by omega), if_pos htable]
  rfl

/-- BREAK's second move is the search (R186; log 5). -/
theorem exec_breakmsg_search (rd rs1 rs2 rs3 rs4 : Reg) {s : State} {n c r : Nat} (hs : s.phase = .busy (.search n c r)) :
    exec (.breakmsg rd rs1 rs2 rs3 rs4) s = .next (searchAndEnd rd n c r s) := by
  simp [exec, execBreakmsg, hs]

end Sys2Proof.Machine

namespace Sys2Proof

open Sys2Proof.Machine

/-- Settles O34: the table is the one `build_table` writes, and the search of BREAK's second move keeps it. -/
theorem tableAfterBuilding : Obligations.TableAfterBuilding := by
  refine ⟨fun rs1 rs2 rs3 s hn he hr hsize hfit => ?_, fun rd rs1 rs2 rs3 rs4 s hs hn he hc hk hkmax hfit => ?_⟩
  · have hlen := State.toNat_tablen_buildTable (s := s) (r := (s.reg rs3).toNat) (s.reg rs1).toNat (s.reg rs2).toNat
      (by omega)
    refine ⟨_, exec_buildtab hn he hr hsize hfit, rfl, rfl, rfl, rfl, .of_frame rfl, fun _ _ => rfl, ?_,
      s.read_buildTable_zero .., fun k hk hkr => s.read_buildTable_of_lt _ _ hk (by omega),
      fun k hk => s.read_buildTable_of_le _ _ (by omega) (by omega)⟩
    rw [State.complete_tablen, hlen]
    omega
  · have hsize : 2 ^ (s.reg rs4).toNat ≤ tableSize s.params := Nat.pow_le_pow_right (by decide) (by omega)
    have hlen := State.toNat_tablen_buildTable (s.reg rs1).toNat (s.reg rs2).toNat hsize
    have hfit' : fits s.params (s.reg rs2).toNat = true := by rwa [Int.toNat_of_nonneg hn.le]
    obtain ⟨o, hend⟩ := completes_searchAndEnd rd (s.reg rs3).toNat (2 ^ (s.reg rs4).toNat)
      (s := s.breakSearching rs1 rs2 rs3 rs4) (by omega) hfit'
    obtain ⟨htablen, htable⟩ := hend.table
    refine ⟨_, _, exec_breakmsg_start rd hs hn he hc hk hkmax hfit, exec_breakmsg_search rd rs1 rs2 rs3 rs4 rfl,
      hend.phase, (congrArg BitVec.toNat htablen).trans hlen, (htable 0).trans (s.read_buildTable_zero ..),
      fun k hk hkr => (htable k).trans (s.read_buildTable_of_lt _ _ hk hkr),
      fun k hk => (htable k).trans (s.read_buildTable_of_le _ _ Nat.one_le_two_pow hk)⟩

/-- Settles O38: the search reads the table that the first move wrote, and takes its first match. -/
theorem breakWritesFirstMatch : Obligations.BreakWritesFirstMatch := by
  intro rd rs1 rs2 rs3 rs4 s T hs hn he hc hk hkmax hfit hT
  have hpos : 0 < (s.reg rs2).toNat := by omega
  have hmod : ((s.reg rs2).toNat : Int) = s.reg rs2 := Int.toNat_of_nonneg hn.le
  have hfit' : fits s.params (s.reg rs2).toNat = true := by rwa [hmod]
  have hsearch : findMessage (s.breakSearching rs1 rs2 rs3 rs4).memRead (s.reg rs2).toNat (s.reg rs3).toNat
      (2 ^ (s.reg rs4).toNat) = findMessage T (s.reg rs2).toNat (s.reg rs3).toNat (2 ^ (s.reg rs4).toNat) :=
    findMessage_congr _ _ fun k hkr => (s.memRead_buildTable _ _ hkr).trans (hT k).symm
  have hcontrols : SameControls s (s.breakSearching rs1 rs2 rs3 rs4) := .of_frame rfl
  obtain ⟨o, hend⟩ := completes_searchAndEnd rd (s.reg rs3).toNat (2 ^ (s.reg rs4).toNat)
    (s := s.breakSearching rs1 rs2 rs3 rs4) hpos hfit'
  refine ⟨_, _, exec_breakmsg_start rd hs hn he hc hk hkmax hfit, fun _ _ => rfl, hcontrols,
    exec_breakmsg_search rd rs1 rs2 rs3 rs4 rfl, hend.phase, hend.done, hend.port, hcontrols.trans hend.controls,
    fun i j hij => ?_, fun hno => ?_⟩
  · obtain ⟨hok, hreg⟩ := completes_searchAndEnd_of_some rd (hsearch.trans (findMessage_of_firstMatch hpos hij))
      (fits_mod hpos hfit' (i * j))
    refine ⟨hok.outcome, ?_, hok.regs⟩
    rw [hreg, Int.natCast_mod, hmod]
  · have hnone := completes_searchAndEnd_of_none rd (hsearch.trans (findMessage_of_no_match hpos hno)) []
    exact ⟨hnone.outcome, hnone.regs⟩

/-- Settles O46: every move of a command is one of those of `Move`. -/
theorem controlRegistersAreKept : Obligations.ControlRegistersAreKept :=
  fun _ _ _ ht => (Move.of_exec ht).sameControls

/-- Settles O47: of all moves only BUILDTAB's and BREAK's first one write the table, each below its width. -/
theorem tableIsKept : Obligations.TableIsKept := by
  refine ⟨fun i s t hi ht => ?_, fun rs1 rs2 rs3 s t ht k hk => ?_, fun rd rs1 rs2 rs3 rs4 s t ht k hk => ?_,
    fun rd rs1 rs2 rs3 rs4 s t n c r hs ht => ?_⟩
  · exact (Move.of_exec ht).sameTable hi
  · rcases execBuildtab_cases rs1 rs2 rs3 s with ⟨c, heq⟩ | ⟨hr, heq⟩ <;> cases heq.symm.trans ht
    · rfl
    · exact s.read_buildTable_of_le _ _ (by omega) (by omega)
  · rcases (Move.of_exec ht).table_cases with ⟨-, hsame⟩ | ⟨_, _, _, ⟨⟩⟩ | ⟨_, _, _, _, _, e, n, ⟨⟩, htable⟩
    · exact hsame k
    · rw [htable]
      exact s.read_buildTable_of_le _ _ Nat.one_le_two_pow hk
  · cases (exec_breakmsg_search rd rs1 rs2 rs3 rs4 hs).symm.trans ht
    exact sameTable_searchAndEnd rd n c r s

/-- Settles O35: the entry that is listed is the one read. -/
theorem tabrdReadsEntry : Obligations.TabrdReadsEntry := by
  intro rd rs1 s v hk hlt hread hfit
  have hentry : s.memRead (s.reg rs1).toNat = v := by rw [State.memRead, hread, Option.getD_some]
  refine ⟨_, ?_, s.completes_finish rd hfit⟩
  rw [exec, execTabrd, if_neg (by omega), hentry]

end Sys2Proof
end

section
/-! The host's bus: bus errors, the register window of a finite-`W` instance, and what the host can change while BUSY. -/

namespace Sys2Proof.Machine

/-! ## The words of a register (R63, R65) -/

namespace IntReg

variable (r : IntReg) (j : Nat) (w : Word)

theorem toNat_limb : (r.limb j).toNat = r.mag / 2 ^ (32 * j) % 2 ^ 32 := BitVec.toNat_ofNat ..

/-- The limbs from `b` on are those of the magnitude divided by `2^(32 * b)`. -/
theorem limb_eq_of_div {r q : IntReg} {k b : Nat} (hb : b ≤ k) (h : q.mag / 2 ^ (32 * b) = r.mag / 2 ^ (32 * b)) :
    q.limb k = r.limb k := by
  obtain ⟨d, rfl⟩ := Nat.exists_eq_add_of_le hb
  simp only [limb, Nat.mul_add, pow_add, ← Nat.div_div_eq_div_mul, h]

/-- The limbs below `b` are those of the magnitude modulo `2^(32 * b)`. -/
theorem limb_eq_of_mod {r q : IntReg} {k b : Nat} (hb : k < b) (h : q.mag % 2 ^ (32 * b) = r.mag % 2 ^ (32 * b)) :
    q.limb k = r.limb k := by
  have hdvd : 2 ^ (32 * k) * 2 ^ 32 ∣ 2 ^ (32 * b) := by
    rw [← pow_add]
    exact pow_dvd_pow 2 (by omega)
  have hmod : q.mag % (2 ^ (32 * k) * 2 ^ 32) = r.mag % (2 ^ (32 * k) * 2 ^ 32) := by
    rw [← Nat.mod_mod_of_dvd q.mag hdvd, h, Nat.mod_mod_of_dvd r.mag hdvd]
  apply BitVec.eq_of_toNat_eq
  rw [toNat_limb, toNat_limb, ← Nat.mod_mul_right_div_self, ← Nat.mod_mul_right_div_self, hmod]

/-- The magnitude after a write of limb `j`: the limbs above, the new limb, the limbs below. -/
theorem mag_withLimb : (r.withLimb j w).mag =
    2 ^ (32 * j) * (2 ^ 32 * (r.mag / 2 ^ (32 * (j + 1))) + w.toNat) + r.mag % 2 ^ (32 * j) := by
  simp only [withLimb, Nat.mul_succ, pow_add]
  ring

theorem mag_withLimb_div : (r.withLimb j w).mag / 2 ^ (32 * j) =
    2 ^ 32 * (r.mag / 2 ^ (32 * (j + 1))) + w.toNat := by
  have hpos := Nat.two_pow_pos (32 * j)
  rw [mag_withLimb, Nat.mul_add_div hpos, Nat.div_eq_of_lt (Nat.mod_lt _ hpos), add_zero]

/-- A written limb is read back. -/
theorem limb_withLimb_same : (r.withLimb j w).limb j = w := by
  apply BitVec.eq_of_toNat_eq
  rw [toNat_limb, mag_withLimb_div, Nat.mul_add_mod, Nat.mod_eq_of_lt w.isLt]

/-- A write of a limb leaves every other limb alone. -/
theorem limb_withLimb_other {j k : Nat} (h : k ≠ j) : (r.withLimb j w).limb k = r.limb k := by
  rcases Nat.lt_or_gt_of_ne h with hlt | hgt
  · refine limb_eq_of_mod hlt ?_
    rw [mag_withLimb, Nat.mul_add_mod, Nat.mod_mod]
  · refine limb_eq_of_div hgt ?_
    have hw : w.toNat / 2 ^ 32 = 0 := Nat.div_eq_of_lt w.isLt
    calc (r.withLimb j w).mag / 2 ^ (32 * (j + 1))
      _ = (r.withLimb j w).mag / 2 ^ (32 * j) / 2 ^ 32 := by
        rw [Nat.div_div_eq_div_mul, ← pow_add, Nat.mul_succ]
      _ = r.mag / 2 ^ (32 * (j + 1)) := by
        rw [mag_withLimb_div, Nat.mul_add_div (Nat.two_pow_pos 32), hw, add_zero]

/-- A written sign is the word's bit 0. -/
theorem neg_withSign : (r.withSign w).neg = w.getLsbD 0 := by
  simp [withSign, BitVec.getLsbD, Nat.testBit_zero]

/-- R63: the sign word is 1 over a negative value and 0 over any other. -/
theorem signWord_eq : r.signWord = if r.value < 0 then 1 else 0 := by
  have hneg : (r.neg && decide (r.mag ≠ 0)) = true ↔ r.value < 0 := by
    cases hn : r.neg <;> simp [value, hn]
  simp only [signWord, hneg]

end IntReg

/-! ## The words of the register window -/

/-- The offset of word `k` of register `i` (R63). -/
def windowOffset (p : Params) (i : Reg) (k : Nat) : Nat := 0x1000 + i.val * (4 * (p.limbs.val + 1)) + 4 * k

theorem windowOffset_aligned (p : Params) (i : Reg) (k : Nat) : windowOffset p i k % 4 = 0 := by
  rw [windowOffset, Nat.mul_left_comm]
  omega

theorem le_windowOffset (p : Params) (i : Reg) (k : Nat) : ¬windowOffset p i k < 0x1000 := by
  rw [windowOffset]
  omega

/-- R63: the register and the word are found from the offset. -/
theorem windowSlot_windowOffset {p : Params} (hp : p.limbs ≠ 0) (i : Reg) {k : Nat} (hk : k ≤ p.limbs.val) :
    windowSlot p (windowOffset p i k) = some (i, k) := by
  have hfinite : p.limbs.val ≠ 0 := fun h => hp (Fin.ext h)
  have hoff : windowOffset p i k - 0x1000 = 4 * k + i.val * (4 * (p.limbs.val + 1)) := by
    rw [windowOffset]
    omega
  have hlt : 4 * k < 4 * (p.limbs.val + 1) := by omega
  have hdiv : (4 * k + i.val * (4 * (p.limbs.val + 1))) / (4 * (p.limbs.val + 1)) = i.val := by
    rw [Nat.add_mul_div_right _ _ (by omega), Nat.div_eq_of_lt hlt, zero_add]
  have hmod : (4 * k + i.val * (4 * (p.limbs.val + 1))) % (4 * (p.limbs.val + 1)) = 4 * k := by
    rw [Nat.add_mul_mod_self_right, Nat.mod_eq_of_lt hlt]
  rw [windowSlot, if_neg (not_or.2 ⟨hfinite, le_windowOffset p i k⟩)]
  simp [hoff, hdiv, hmod]

/-- R61: unless IDLE, a write of a window word is dropped. -/
theorem State.windowWrite_of_ne_idle {s : State} (hs : s.phase ≠ .idle) (i : Reg) (word : Nat) (w : Word) :
    s.windowWrite i word w = s := by
  simp [State.windowWrite, State.isIdle_of_ne hs]

/-- R65: while IDLE, a write of a window word changes its register alone. -/
theorem State.windowWrite_of_idle {s : State} (hs : s.phase = .idle) (i : Reg) (word : Nat) (w : Word) :
    SameRegsBut [i] s (s.windowWrite i word w) ∧
      s.windowWrite i word w = { s with x := (s.windowWrite i word w).x } ∧
      (s.windowWrite i word w).x.get i =
        if word = 0 then (s.x.get i).withSign w else (s.x.get i).withLimb (word - 1) w := by
  rw [State.windowWrite, if_pos (State.isIdle_iff.2 hs)]
  refine ⟨fun r hr => ?_, rfl, ?_⟩
  · have hne : i.val ≠ r.val := fun h => hr (List.mem_singleton.2 (Fin.ext h.symm))
    simp [Vector.get_eq_getElem, Vector.getElem_set_ne _ _ hne]
  · simp [Vector.get_eq_getElem]

section
variable {s : State} (hlimbs : s.params.limbs ≠ 0) (i : Reg) {k : Nat} (hk : k ≤ s.params.limbs.val)
include hlimbs hk

theorem State.writeReg_window (w : Word) :
    s.writeReg (windowOffset s.params i k) w = .next ((s.windowWrite i k w).respond .ack) := by
  simp [State.writeReg, windowOffset_aligned, le_windowOffset, windowSlot_windowOffset hlimbs i hk]

/-- Unless BUSY, a read of a window word returns it (R61). -/
theorem State.readReg_window (hs : s.busy = false) :
    s.readReg (windowOffset s.params i k) = .next (s.respond (.word (s.windowRead i k))) := by
  simp [State.readReg, windowOffset_aligned, le_windowOffset, windowSlot_windowOffset hlimbs i hk, hs]

/-- While BUSY, a read of a window word returns a free value (R61; log 8). -/
theorem State.readReg_window_of_busy (hs : s.busy = true) : s.readReg (windowOffset s.params i k) =
    .next { s with clock := s.clock + 1, response := .word (Config.busyWord s.clock) } := by
  simp [State.readReg, windowOffset_aligned, le_windowOffset, windowSlot_windowOffset hlimbs i hk, hs]

end

/-- While IDLE, a write at the offset of word `k` of register `i` changes that word alone (R65). -/
theorem step_writeReg_window {s : State} {i : Reg} {k : Nat} {w : Word} {rest : List Event}
    (hlimbs : s.params.limbs ≠ 0) (hk : k ≤ s.params.limbs.val) (hs : s.phase = .idle)
    (h : s.pending = .host (.writeReg (windowOffset s.params i k) w) :: rest) :
    ∃ t, step s = .next t ∧ SameRegsBut [i] s t ∧ t = { s with x := t.x, pending := rest, response := .ack } ∧
      t.x.get i = if k = 0 then (s.x.get i).withSign w else (s.x.get i).withLimb (k - 1) w := by
  obtain ⟨hregs, hframe, hword⟩ := State.windowWrite_of_idle (s := { s with pending := rest }) hs i k w
  refine ⟨_, (step_of_pending h).trans (State.writeReg_window (s := { s with pending := rest }) hlimbs i hk w), hregs,
    ?_, hword⟩
  rw [hframe]
  rfl

/-! ## What the host can change while BUSY -/

/-- R61: while BUSY a host transaction that neither resets nor writes CTRL changes nothing of the CORE. -/
theorem State.transact_of_busy {s t : State} {tr : Transaction} (hs : s.busy = true) (hreset : tr ≠ .hardReset)
    (hctrl : ∀ w, tr ≠ .writeReg 0x08 w) (ht : s.transact tr = .next t) :
    t = { s with clock := t.clock, response := t.response } := by
  have hidle : s.phase ≠ .idle := by
    obtain ⟨w, hw⟩ := State.busy_iff.1 hs
    simp [hw]
  cases tr with
  | writeX i v =>
    by_cases hv : fits s.params v = true
    · cases (State.writeX_of_ne_idle hidle i hv).symm.trans ht
      rfl
    · simp [State.transact, State.writeX, hv] at ht
  | readX i =>
    rw [State.transact, State.readX_of_busy hs] at ht
    cases ht
    rfl
  | writeReg off w =>
    have hoff : off ≠ 0x08 := fun h => hctrl w (h ▸ rfl)
    simp only [State.transact, State.writeReg, State.controlWrite_of_ne_idle hidle hoff,
      State.windowWrite_of_ne_idle hidle] at ht
    split at ht
    · cases ht
      rfl
    · split at ht
      · cases ht
        rfl
      · split at ht <;> cases ht
        rfl
  | readReg off =>
    simp only [State.transact, State.readReg, hs, if_true] at ht
    split at ht
    · cases ht
      rfl
    · split at ht
      · cases ht
        rfl
      · split at ht <;> cases ht
        rfl
  | oddAccess width off =>
    cases ht
    rfl
  | hardReset => exact absurd rfl hreset

end Sys2Proof.Machine

namespace Sys2Proof

open Sys2Proof.Machine

/-- Settles O55: a window offset names its register and word, and a word written or read is the sign or a limb. -/
theorem windowWordWrites : Obligations.WindowWordWrites := by
  rintro s i w rest _ hlimbs rfl
  refine ⟨fun hs => ⟨fun j hj hp => ?_, fun hp => ?_⟩, fun hs k hk hp => ?_,
    fun hs => ⟨fun j hj hp => ?_, fun hp => ?_⟩, fun hs k hk hp => ?_⟩
  · obtain ⟨t, ht, hregs, hframe, hword⟩ := step_writeReg_window (k := 1 + j) hlimbs (by omega) hs hp
    rw [if_neg (by omega), Nat.add_sub_cancel_left] at hword
    refine ⟨t, ht, ?_, fun k hk => ?_, ?_, hregs, hframe⟩ <;> rw [hword]
    · exact IntReg.limb_withLimb_same _ j w
    · exact IntReg.limb_withLimb_other _ w hk
    · rfl
  · obtain ⟨t, ht, hregs, hframe, hword⟩ := step_writeReg_window (k := 0) hlimbs (Nat.zero_le _) hs hp
    rw [if_pos rfl] at hword
    refine ⟨t, ht, ?_, ?_, hregs, hframe⟩ <;> rw [hword]
    · exact IntReg.neg_withSign _ w
    · rfl
  · have hwrite := State.writeReg_window (s := { s with pending := rest }) hlimbs i hk w
    rw [State.windowWrite_of_ne_idle (s := { s with pending := rest }) hs] at hwrite
    exact (step_of_pending hp).trans hwrite
  · refine ⟨_, (step_of_pending hp).trans
      (State.readReg_window (s := { s with pending := rest }) hlimbs i (k := 1 + j) (Nat.one_add_le_iff.2 hj) hs), ?_⟩
    rw [State.windowRead, if_neg (by omega), Nat.add_sub_cancel_left, IntReg.toNat_limb, State.reg, IntReg.natAbs_value]
  · have hread := State.readReg_window (s := { s with pending := rest }) hlimbs i (Nat.zero_le _) hs
    rw [State.windowRead, if_pos rfl, IntReg.signWord_eq] at hread
    exact (step_of_pending hp).trans hread
  · exact ⟨_, (step_of_pending hp).trans
      (State.readReg_window_of_busy (s := { s with pending := rest }) hlimbs i hk hs)⟩

/-- Settles O58. -/
theorem busyShieldsTheCommand : Obligations.BusyShieldsTheCommand := by
  intro s t tr rest hs hp hreset hctrl ht
  rw [step_of_pending hp] at ht
  exact State.transact_of_busy (s := { s with pending := rest }) hs hreset hctrl ht

/-- Settles O56: such an access answers before anything is looked at. -/
theorem busErrorsChangeNothing : Obligations.BusErrorsChangeNothing := by
  intro s t rest hp h
  rw [step_of_pending hp]
  rcases h with ⟨off, w, rfl, halign⟩ | ⟨off, rfl, halign⟩ | ⟨width, off, rfl⟩
  · exact if_pos halign
  · exact if_pos halign
  · rfl

end Sys2Proof
end

section
/-! Decoding and encoding (R80 to R90): a word as its opcode and register fields, the words each format admits, the word of
a command, and the masks of the opcode table. -/

namespace Sys2Proof

/-! ## The fields of a word (R81) -/

theorem opcodeField_lt (w : Word) : opcodeField w < 256 := Nat.mod_lt _ (by decide)

/-- A word is the opcode and the six register fields packed into it, and no other word is. -/
theorem packWord_eq_iff {op : Nat} (h : op < 256) {f2 f3 f4 f5 f6 f7 : Reg} {w : Word} :
    packWord op f2 f3 f4 f5 f6 f7 = w ↔ opcodeField w = op ∧ regField w 2 = f2 ∧ regField w 3 = f3 ∧
      regField w 4 = f4 ∧ regField w 5 = f5 ∧ regField w 6 = f6 ∧ regField w 7 = f7 := by
  simp only [packWord, opcodeField, regField, Fin.ext_iff, ← BitVec.toNat_inj, BitVec.toNat_ofNat]
  omega

section

variable (w : Word)

/-- The bits from a field on are zero when that field and the bits above it are. -/
theorem div_pow_eq_zero_iff (k : Nat) :
    w.toNat / 16 ^ k = 0 ↔ regField w k = 0 ∧ w.toNat / 16 ^ (k + 1) = 0 := by
  rw [pow_succ, ← Nat.div_div_eq_div_mul, regField, Fin.ext_iff]
  show _ ↔ _ % 16 = 0 ∧ _
  omega

theorem div_pow_seven_eq_zero_iff : w.toNat / 16 ^ 7 = 0 ↔ regField w 7 = 0 :=
  (div_pow_eq_zero_iff w 7).trans (and_iff_left (Nat.div_eq_of_lt w.isLt))

theorem div_pow_six_eq_zero_iff : w.toNat / 16 ^ 6 = 0 ↔ regField w 6 = 0 ∧ regField w 7 = 0 := by
  rw [div_pow_eq_zero_iff, div_pow_seven_eq_zero_iff]

theorem div_pow_five_eq_zero_iff :
    w.toNat / 16 ^ 5 = 0 ↔ regField w 5 = 0 ∧ regField w 6 = 0 ∧ regField w 7 = 0 := by
  rw [div_pow_eq_zero_iff, div_pow_six_eq_zero_iff]

theorem div_pow_four_eq_zero_iff :
    w.toNat / 16 ^ 4 = 0 ↔ regField w 4 = 0 ∧ regField w 5 = 0 ∧ regField w 6 = 0 ∧ regField w 7 = 0 := by
  rw [div_pow_eq_zero_iff, div_pow_five_eq_zero_iff]

theorem div_pow_two_eq_zero_iff : w.toNat / 16 ^ 2 = 0 ↔ regField w 2 = 0 ∧ regField w 3 = 0 ∧
    regField w 4 = 0 ∧ regField w 5 = 0 ∧ regField w 6 = 0 ∧ regField w 7 = 0 := by
  rw [div_pow_eq_zero_iff, div_pow_eq_zero_iff, div_pow_four_eq_zero_iff]

end

/-! ## The words each format admits (R82), as packed words -/

theorem ite_eq_ok_iff {P : Prop} [Decidable P] {e : DecodeError} {i j : Instr} :
    (if P then Except.ok j else Except.error e) = Except.ok i ↔ P ∧ j = i := by
  split <;> simp [*]

section

variable {w : Word} {i : Instr} {op : Nat} (hop : opcodeField w = op)

include hop

theorem decodeZ_eq_ok_iff {j : Instr} :
    decodeZ w j = .ok i ↔ packWord op 0 0 0 0 0 0 = w ∧ j = i := by
  simp only [decodeZ, ite_eq_ok_iff, div_pow_two_eq_zero_iff, packWord_eq_iff (hop ▸ opcodeField_lt w), hop, true_and]

theorem decodeD1S1_eq_ok_iff {mk : Reg → Reg → Instr} :
    decodeD1S1 w mk = .ok i ↔ ∃ rd rs1, packWord op rd rs1 0 0 0 0 = w ∧ mk rd rs1 = i := by
  rw [decodeD1S1, ite_eq_ok_iff, div_pow_four_eq_zero_iff]
  simp [packWord_eq_iff (hop ▸ opcodeField_lt w), hop, and_assoc]

theorem decodeD1S2_eq_ok_iff {mk : Reg → Reg → Reg → Instr} :
    decodeD1S2 w mk = .ok i ↔
      ∃ rd rs1 rs2, packWord op rd rs1 rs2 0 0 0 = w ∧ mk rd rs1 rs2 = i := by
  rw [decodeD1S2, ite_eq_ok_iff, div_pow_five_eq_zero_iff]
  simp [packWord_eq_iff (hop ▸ opcodeField_lt w), hop, and_assoc]

theorem decodeD1S3_eq_ok_iff {mk : Reg → Reg → Reg → Reg → Instr} :
    decodeD1S3 w mk = .ok i ↔
      ∃ rd rs1 rs2 rs3, packWord op rd rs1 rs2 rs3 0 0 = w ∧ mk rd rs1 rs2 rs3 = i := by
  rw [decodeD1S3, ite_eq_ok_iff, div_pow_six_eq_zero_iff]
  simp [packWord_eq_iff (hop ▸ opcodeField_lt w), hop, and_assoc]

theorem decodeD1S4_eq_ok_iff {mk : Reg → Reg → Reg → Reg → Reg → Instr} :
    decodeD1S4 w mk = .ok i ↔
      ∃ rd rs1 rs2 rs3 rs4, packWord op rd rs1 rs2 rs3 rs4 0 = w ∧ mk rd rs1 rs2 rs3 rs4 = i := by
  rw [decodeD1S4, ite_eq_ok_iff, div_pow_seven_eq_zero_iff]
  simp [packWord_eq_iff (hop ▸ opcodeField_lt w), hop]

theorem decodeS3_eq_ok_iff {mk : Reg → Reg → Reg → Instr} :
    decodeS3 w mk = .ok i ↔
      ∃ rs1 rs2 rs3, packWord op 0 rs1 rs2 rs3 0 0 = w ∧ mk rs1 rs2 rs3 = i := by
  rw [decodeS3, ite_eq_ok_iff, div_pow_six_eq_zero_iff, and_comm (b := regField w 2 = 0)]
  simp [packWord_eq_iff (hop ▸ opcodeField_lt w), hop, and_assoc]

theorem decodeD3S2_eq_ok_iff {mk : Reg → Reg → Reg → Reg → Reg → Instr} :
    decodeD3S2 w mk = .ok i ↔
      ∃ rd rd2 rd3 rs1 rs2, packWord op rd rs1 rs2 0 rd2 rd3 = w ∧
        distinctDestinations rd rd2 rd3 = true ∧ mk rd rd2 rd3 rs1 rs2 = i := by
  rw [decodeD3S2]
  split
  next hzero => simp [ite_eq_ok_iff, packWord_eq_iff (hop ▸ opcodeField_lt w), hop, hzero]
  next hzero => simp [packWord_eq_iff (hop ▸ opcodeField_lt w), hop, hzero]

end

/-! ## Decoding and encoding (R83, R90) -/

theorem opcodeField_encode (i : Instr) : opcodeField (encode i) = opcodeOf i := by
  cases i <;> exact Laws.opcodeField_packWord _ (by decide) ..

/-- The word of a well-formed command decodes to it. -/
theorem decodeWord_encode {i : Instr} (hwf : i.wellFormed = true) : decodeWord (encode i) = .ok i := by
  have hop := opcodeField_encode i
  cases i <;> simp only [decodeWord, hop, opcodeOf]
  case nop => exact (decodeZ_eq_ok_iff hop).2 ⟨rfl, rfl⟩
  case modmul | modpow | encrypt | decrypt | findmsg => exact (decodeD1S3_eq_ok_iff hop).2 ⟨_, _, _, _, rfl, rfl⟩
  case gcd | modinv => exact (decodeD1S2_eq_ok_iff hop).2 ⟨_, _, _, rfl, rfl⟩
  case xgcd | genkey => exact (decodeD3S2_eq_ok_iff hop).2 ⟨_, _, _, _, _, rfl, hwf, rfl⟩
  case witness | breakmsg => exact (decodeD1S4_eq_ok_iff hop).2 ⟨_, _, _, _, _, rfl, rfl⟩
  case isprime | tabrd => exact (decodeD1S1_eq_ok_iff hop).2 ⟨_, _, rfl, rfl⟩
  case buildtab => exact (decodeS3_eq_ok_iff hop).2 ⟨_, _, _, rfl, rfl⟩

/-- A word decodes only to the well-formed command whose word it is. -/
theorem encode_of_decodeWord {w : Word} {i : Instr} (h : decodeWord w = .ok i) :
    i.wellFormed = true ∧ encode i = w := by
  unfold decodeWord at h
  split at h
  next hop => obtain ⟨rfl, rfl⟩ := (decodeZ_eq_ok_iff hop).1 h; exact ⟨rfl, rfl⟩
  next hop => obtain ⟨_, _, _, _, rfl, rfl⟩ := (decodeD1S3_eq_ok_iff hop).1 h; exact ⟨rfl, rfl⟩
  next hop => obtain ⟨_, _, _, _, rfl, rfl⟩ := (decodeD1S3_eq_ok_iff hop).1 h; exact ⟨rfl, rfl⟩
  next hop => obtain ⟨_, _, _, rfl, rfl⟩ := (decodeD1S2_eq_ok_iff hop).1 h; exact ⟨rfl, rfl⟩
  next hop => obtain ⟨_, _, _, _, _, rfl, hwf, rfl⟩ := (decodeD3S2_eq_ok_iff hop).1 h; exact ⟨hwf, rfl⟩
  next hop => obtain ⟨_, _, _, rfl, rfl⟩ := (decodeD1S2_eq_ok_iff hop).1 h; exact ⟨rfl, rfl⟩
  next hop => obtain ⟨_, _, _, _, _, rfl, rfl⟩ := (decodeD1S4_eq_ok_iff hop).1 h; exact ⟨rfl, rfl⟩
  next hop => obtain ⟨_, _, rfl, rfl⟩ := (decodeD1S1_eq_ok_iff hop).1 h; exact ⟨rfl, rfl⟩
  next hop => obtain ⟨_, _, _, _, _, rfl, hwf, rfl⟩ := (decodeD3S2_eq_ok_iff hop).1 h; exact ⟨hwf, rfl⟩
  next hop => obtain ⟨_, _, _, _, rfl, rfl⟩ := (decodeD1S3_eq_ok_iff hop).1 h; exact ⟨rfl, rfl⟩
  next hop => obtain ⟨_, _, _, _, rfl, rfl⟩ := (decodeD1S3_eq_ok_iff hop).1 h; exact ⟨rfl, rfl⟩
  next hop => obtain ⟨_, _, _, rfl, rfl⟩ := (decodeS3_eq_ok_iff hop).1 h; exact ⟨rfl, rfl⟩
  next hop => obtain ⟨_, _, _, _, rfl, rfl⟩ := (decodeD1S3_eq_ok_iff hop).1 h; exact ⟨rfl, rfl⟩
  next hop => obtain ⟨_, _, _, _, _, rfl, rfl⟩ := (decodeD1S4_eq_ok_iff hop).1 h; exact ⟨rfl, rfl⟩
  next hop => obtain ⟨_, _, rfl, rfl⟩ := (decodeD1S1_eq_ok_iff hop).1 h; exact ⟨rfl, rfl⟩
  next => cases h

/-! ## The masks of the opcode table (R82) -/

theorem opcodeField_and (u v : Word) : opcodeField (u &&& v) = opcodeField u &&& opcodeField v := by
  simpa [opcodeField] using Nat.and_mod_two_pow (n := 8)

theorem regField_and (u v : Word) (k : Nat) : regField (u &&& v) k = regField u k &&& regField v k := by
  have hpow : 16 ^ k = 2 ^ (4 * k) := (pow_mul 2 4 k).symm
  have hdigit : (u.toNat &&& v.toNat) / 16 ^ k % 16 = (regField u k).val &&& (regField v k).val := by
    rw [hpow, Nat.and_div_two_pow, Nat.and_mod_two_pow (n := 4), ← hpow]
    rfl
  apply Fin.ext
  show (u &&& v).toNat / 16 ^ k % 16 = ((regField u k).val &&& (regField v k).val) % 16
  rw [← hdigit, BitVec.toNat_and, Nat.mod_mod]

theorem reg_and_fifteen (a : Reg) : a &&& 15 = a := by decide +revert

theorem reg_and_zero (a : Reg) : a &&& 0 = 0 := by decide +revert

theorem opcodeField_and_byte (w : Word) : opcodeField w &&& 0xFF = opcodeField w := by
  rw [Nat.and_two_pow_sub_one_eq_mod _ 8, Nat.mod_eq_of_lt (opcodeField_lt w)]

/-- A mask whose opcode byte is 0xFF selects the opcode, and of each register field what its own field selects. -/
theorem and_packWord_eq_iff {w : Word} {op : Nat} (hop : opcodeField w = op) {m2 m3 m4 m5 m6 m7 : Reg} :
    w &&& packWord 0xFF m2 m3 m4 m5 m6 m7 = BitVec.ofNat 32 op ↔
      regField w 2 &&& m2 = 0 ∧ regField w 3 &&& m3 = 0 ∧ regField w 4 &&& m4 = 0 ∧ regField w 5 &&& m5 = 0 ∧
        regField w 6 &&& m6 = 0 ∧ regField w 7 &&& m7 = 0 := by
  obtain ⟨hmask, h2, h3, h4, h5, h6, h7⟩ := (packWord_eq_iff (f2 := m2) (f3 := m3) (f4 := m4) (f5 := m5) (f6 := m6)
    (f7 := m7) (show 0xFF < 256 by decide)).1 rfl
  have hpack : BitVec.ofNat 32 op = packWord op 0 0 0 0 0 0 := by simp [packWord]
  rw [hpack, eq_comm, packWord_eq_iff (hop ▸ opcodeField_lt w), opcodeField_and, hmask, opcodeField_and_byte]
  simp only [hop, true_and, regField_and, h2, h3, h4, h5, h6, h7]

/-! ## The rows of the opcode table (R82) -/

/-- `w` is a word of the opcode table's row (R82), its destinations differing where R86 applies. -/
def MatchesRow (w : Word) (row : Word × Word × Bool) : Prop :=
  w &&& row.1 = row.2.1 ∧
    (row.2.2 = true → distinctDestinations (regField w 2) (regField w 6) (regField w 7) = true)

section

variable {w : Word} {op : Nat} (hop : opcodeField w = op)

include hop

theorem decodeZ_ok_iff_matchesRow {j : Instr} :
    (∃ i, decodeZ w j = .ok i) ↔ MatchesRow w (0xFFFFFFFF, BitVec.ofNat 32 op, false) := by
  rw [MatchesRow, show (0xFFFFFFFF : Word) = packWord 0xFF 15 15 15 15 15 15 from rfl, and_packWord_eq_iff hop]
  simp [decodeZ_eq_ok_iff hop, packWord_eq_iff (hop ▸ opcodeField_lt w), hop, reg_and_fifteen]

theorem decodeD1S1_ok_iff_matchesRow {mk : Reg → Reg → Instr} :
    (∃ i, decodeD1S1 w mk = .ok i) ↔ MatchesRow w (0xFFFF00FF, BitVec.ofNat 32 op, false) := by
  rw [MatchesRow, show (0xFFFF00FF : Word) = packWord 0xFF 0 0 15 15 15 15 from rfl, and_packWord_eq_iff hop]
  simp [decodeD1S1_eq_ok_iff hop, packWord_eq_iff (hop ▸ opcodeField_lt w), hop, reg_and_zero, reg_and_fifteen]

theorem decodeD1S2_ok_iff_matchesRow {mk : Reg → Reg → Reg → Instr} :
    (∃ i, decodeD1S2 w mk = .ok i) ↔ MatchesRow w (0xFFF000FF, BitVec.ofNat 32 op, false) := by
  rw [MatchesRow, show (0xFFF000FF : Word) = packWord 0xFF 0 0 0 15 15 15 from rfl, and_packWord_eq_iff hop]
  simp [decodeD1S2_eq_ok_iff hop, packWord_eq_iff (hop ▸ opcodeField_lt w), hop, reg_and_zero, reg_and_fifteen]

theorem decodeD1S3_ok_iff_matchesRow {mk : Reg → Reg → Reg → Reg → Instr} :
    (∃ i, decodeD1S3 w mk = .ok i) ↔ MatchesRow w (0xFF0000FF, BitVec.ofNat 32 op, false) := by
  rw [MatchesRow, show (0xFF0000FF : Word) = packWord 0xFF 0 0 0 0 15 15 from rfl, and_packWord_eq_iff hop]
  simp [decodeD1S3_eq_ok_iff hop, packWord_eq_iff (hop ▸ opcodeField_lt w), hop, reg_and_zero, reg_and_fifteen]

theorem decodeD1S4_ok_iff_matchesRow {mk : Reg → Reg → Reg → Reg → Reg → Instr} :
    (∃ i, decodeD1S4 w mk = .ok i) ↔ MatchesRow w (0xF00000FF, BitVec.ofNat 32 op, false) := by
  rw [MatchesRow, show (0xF00000FF : Word) = packWord 0xFF 0 0 0 0 0 15 from rfl, and_packWord_eq_iff hop]
  simp [decodeD1S4_eq_ok_iff hop, packWord_eq_iff (hop ▸ opcodeField_lt w), hop, reg_and_zero, reg_and_fifteen]

theorem decodeS3_ok_iff_matchesRow {mk : Reg → Reg → Reg → Instr} :
    (∃ i, decodeS3 w mk = .ok i) ↔ MatchesRow w (0xFF000FFF, BitVec.ofNat 32 op, false) := by
  rw [MatchesRow, show (0xFF000FFF : Word) = packWord 0xFF 15 0 0 0 15 15 from rfl, and_packWord_eq_iff hop]
  simp [decodeS3_eq_ok_iff hop, packWord_eq_iff (hop ▸ opcodeField_lt w), hop, reg_and_zero, reg_and_fifteen]

theorem decodeD3S2_ok_iff_matchesRow {mk : Reg → Reg → Reg → Reg → Reg → Instr} :
    (∃ i, decodeD3S2 w mk = .ok i) ↔ MatchesRow w (0x00F000FF, BitVec.ofNat 32 op, true) := by
  rw [MatchesRow, show (0x00F000FF : Word) = packWord 0xFF 0 0 0 15 0 0 from rfl, and_packWord_eq_iff hop]
  simp [decodeD3S2_eq_ok_iff hop, packWord_eq_iff (hop ▸ opcodeField_lt w), hop, reg_and_zero, reg_and_fifteen]

end

theorem opcodeField_maskRows : maskRows.map (fun row => opcodeField row.2.1) =
    [0x00, 0x10, 0x11, 0x12, 0x13, 0x14, 0x20, 0x21, 0x30, 0x40, 0x41, 0x50, 0x51, 0x52, 0x53] := rfl

/-- A word that matches a row has the row's opcode. -/
theorem MatchesRow.opcodeField_eq {w : Word} {row : Word × Word × Bool} (h : MatchesRow w row)
    (hrow : row ∈ maskRows) : opcodeField w = opcodeField row.2.1 := by
  have hmask : ∀ r ∈ maskRows, opcodeField r.1 = 0xFF := by simp [maskRows, opcodeField]
  rw [← h.1, opcodeField_and, hmask row hrow, opcodeField_and_byte]

/-- A word can match only the row of its opcode. -/
theorem matchesRow_iff_exists {w : Word} {row : Word × Word × Bool} (hrow : row ∈ maskRows)
    (hop : opcodeField w = opcodeField row.2.1) : MatchesRow w row ↔ ∃ r ∈ maskRows, MatchesRow w r := by
  have hnodup : (maskRows.map fun r => opcodeField r.2.1).Nodup := by
    rw [opcodeField_maskRows]
    decide
  refine ⟨fun h => ⟨row, hrow, h⟩, ?_⟩
  rintro ⟨r, hr, h⟩
  exact List.inj_on_of_nodup_map hnodup hr hrow ((h.opcodeField_eq hr).symm.trans hop) ▸ h

/-- R82, R86, R90: a word is legal exactly when it matches a row. -/
theorem legal_iff_matchesRow (w : Word) : (∃ i, decodeWord w = .ok i) ↔ ∃ row ∈ maskRows, MatchesRow w row := by
  unfold decodeWord
  split
  next hop => exact (decodeZ_ok_iff_matchesRow hop).trans (matchesRow_iff_exists (by decide) hop)
  next hop => exact (decodeD1S3_ok_iff_matchesRow hop).trans (matchesRow_iff_exists (by decide) hop)
  next hop => exact (decodeD1S3_ok_iff_matchesRow hop).trans (matchesRow_iff_exists (by decide) hop)
  next hop => exact (decodeD1S2_ok_iff_matchesRow hop).trans (matchesRow_iff_exists (by decide) hop)
  next hop => exact (decodeD3S2_ok_iff_matchesRow hop).trans (matchesRow_iff_exists (by decide) hop)
  next hop => exact (decodeD1S2_ok_iff_matchesRow hop).trans (matchesRow_iff_exists (by decide) hop)
  next hop => exact (decodeD1S4_ok_iff_matchesRow hop).trans (matchesRow_iff_exists (by decide) hop)
  next hop => exact (decodeD1S1_ok_iff_matchesRow hop).trans (matchesRow_iff_exists (by decide) hop)
  next hop => exact (decodeD3S2_ok_iff_matchesRow hop).trans (matchesRow_iff_exists (by decide) hop)
  next hop => exact (decodeD1S3_ok_iff_matchesRow hop).trans (matchesRow_iff_exists (by decide) hop)
  next hop => exact (decodeD1S3_ok_iff_matchesRow hop).trans (matchesRow_iff_exists (by decide) hop)
  next hop => exact (decodeS3_ok_iff_matchesRow hop).trans (matchesRow_iff_exists (by decide) hop)
  next hop => exact (decodeD1S3_ok_iff_matchesRow hop).trans (matchesRow_iff_exists (by decide) hop)
  next hop => exact (decodeD1S4_ok_iff_matchesRow hop).trans (matchesRow_iff_exists (by decide) hop)
  next hop => exact (decodeD1S1_ok_iff_matchesRow hop).trans (matchesRow_iff_exists (by decide) hop)
  next =>
    refine iff_of_false nofun ?_
    rintro ⟨row, hrow, h⟩
    have hop := List.mem_map_of_mem (f := fun r => opcodeField r.2.1) hrow
    rw [← h.opcodeField_eq hrow, opcodeField_maskRows] at hop
    -- `hop` leaves only the opcodes that the decoder's arms have excluded.
    simp_all

/-- Two four-bit slices of a word agree when the register fields that lie there do. -/
theorem extractLsb'_eq_iff (w : Word) (j k : Nat) :
    w.extractLsb' (4 * j) 4 = w.extractLsb' (4 * k) 4 ↔ regField w j = regField w k := by
  simp only [← BitVec.toNat_inj, Machine.toNat_extractLsb', Fin.ext_iff, regField, pow_mul]
  rfl

/-- R86 on the bits of a word: its three destination fields differ. -/
theorem distinctDestinations_iff_extractLsb' {w : Word} :
    distinctDestinations (regField w 2) (regField w 6) (regField w 7) = true ↔
      w.extractLsb' 8 4 ≠ w.extractLsb' 24 4 ∧ w.extractLsb' 8 4 ≠ w.extractLsb' 28 4 ∧
        w.extractLsb' 24 4 ≠ w.extractLsb' 28 4 := by
  have h26 : w.extractLsb' 8 4 = w.extractLsb' 24 4 ↔ regField w 2 = regField w 6 := extractLsb'_eq_iff w 2 6
  have h27 : w.extractLsb' 8 4 = w.extractLsb' 28 4 ↔ regField w 2 = regField w 7 := extractLsb'_eq_iff w 2 7
  have h67 : w.extractLsb' 24 4 = w.extractLsb' 28 4 ↔ regField w 6 = regField w 7 := extractLsb'_eq_iff w 6 7
  simp [distinctDestinations, h26, h27, h67, and_assoc]

/-! ## The obligations -/

/-- Settles O1. -/
theorem decodeAndEncodeAgree : Obligations.DecodeAndEncodeAgree :=
  ⟨fun _ => decodeWord_encode, fun _ _ => encode_of_decodeWord⟩

/-- Settles O2: each format admits exactly the words that match its mask, and no two rows share an opcode. -/
theorem legalWordsMatchTheMasks : Obligations.LegalWordsMatchTheMasks := by
  intro w
  simp only [legal_iff_matchesRow, MatchesRow, distinctDestinations_iff_extractLsb', Prod.exists]

/-- Settles O48: every move of a command is one of those of `Move`. -/
theorem everyMoveAnswersNext : Obligations.EveryMoveAnswersNext := by
  intro i s
  obtain ⟨t, ht, -⟩ := Machine.exec_move i s
  exact ⟨t, ht⟩

/-- Settles O3: every word is a literal, so the decoder computes. -/
theorem specWordsDecode : Obligations.SpecWordsDecode := by
  unfold Obligations.SpecWordsDecode
  decide

end Sys2Proof
end

section
/-! The Modular Arithmetic Engine: what `gcd`, `xgcd` and `modinv` compute, the end of a command with several results, the
commands MODMUL, MODPOW, GCD, XGCD and MODINV, and the check of the modulus in every command that has one. The size of the
Bezout coefficients comes from an invariant of `xgcd`'s loop. -/

namespace Sys2Proof.Machine

/-! ## `gcd` -/

/-- With enough fuel the loop of `gcd` ends with the greatest common divisor (R106). -/
theorem gcdLoop_eq {fuel a b : Nat} (h : b ≤ fuel) : gcdLoop fuel a b = Nat.gcd a b := by
  induction fuel generalizing a b with
  | zero => simp [gcdLoop, Nat.le_zero.1 h]
  | succ fuel ih =>
    rw [gcdLoop]
    split
    · next hb => rw [hb, Nat.gcd_zero_right]
    · next hb =>
      have hlt : a % b < b := Nat.mod_lt a (Nat.pos_of_ne_zero hb)
      rw [ih (by omega), Nat.gcd_comm, ← Nat.gcd_rec, Nat.gcd_comm]

/-- R106, R107: `gcd` is the greatest common divisor, for all integers. -/
theorem gcd_eq (x y : Int) : gcd x y = Int.gcd x y := gcdLoop_eq le_rfl

/-- The third result of `xgcd` is the greatest common divisor (R109). -/
theorem xgcd_snd_snd (u v : Int) : (xgcd u v).2.2 = Int.gcd u v := by rw [xgcd_gcd, gcd_eq]

/-! ## The loop of `xgcd` -/

/-- What holds in `xgcd`'s loop of one of its two sequences of coefficients: the signs alternate, and the magnitudes of two
neighbours, each times the other's remainder, add up to the operand `c` that the sequence does not belong to. -/
structure CofactorBound (c r0 r1 : Nat) (x0 x1 : Int) : Prop where
  opposite : x0 * x1 ≤ 0
  total : x1.natAbs * r0 + x0.natAbs * r1 = c
  size : x0.natAbs ≤ max 1 x1.natAbs
  falling : x1.natAbs ≤ 1 ∨ r1 < r0

/-- Subtracting a multiple of a number of the other sign adds the magnitudes. -/
theorem natAbs_sub_mul {x y : Int} (h : x * y ≤ 0) (q : Nat) : (x - q * y).natAbs = x.natAbs + q * y.natAbs := by
  rw [← Int.natAbs_natCast q, ← Int.natAbs_mul, Int.natAbs_natCast]
  rcases mul_nonpos_iff.1 h with ⟨hx, hy⟩ | ⟨hx, hy⟩
  · have := mul_nonpos_of_nonneg_of_nonpos q.cast_nonneg hy
    omega
  · have := mul_nonneg q.cast_nonneg hy
    omega

/-- One iteration keeps the bound. Only the first one can have the quotient 0, and there `x1` is 0 or 1. -/
theorem CofactorBound.step {c r0 r1 : Nat} {x0 x1 : Int} (h : CofactorBound c r0 r1 x0 x1) (hr : r1 ≠ 0) :
    CofactorBound c r1 (r0 % r1) x1 (x0 - (r0 / r1 : Nat) * x1) := by
  obtain ⟨hopp, htotal, hsize, hfall⟩ := h
  have habs := natAbs_sub_mul hopp (r0 / r1)
  refine ⟨?_, ?_, ?_, .inr (Nat.mod_lt r0 (Nat.pos_of_ne_zero hr))⟩
  · have hsquare : 0 ≤ (r0 / r1 : Nat) * (x1 * x1) := mul_nonneg (Nat.cast_nonneg _) (mul_self_nonneg x1)
    linarith
  · calc (x0 - (r0 / r1 : Nat) * x1).natAbs * r1 + x1.natAbs * (r0 % r1)
        = x1.natAbs * (r1 * (r0 / r1) + r0 % r1) + x0.natAbs * r1 := by rw [habs]; ring
      _ = c := by rw [Nat.div_add_mod, htotal]
  · rw [habs]
    rcases hfall with hone | hlt
    · exact le_max_of_le_left hone
    · have hquot : 1 ≤ r0 / r1 := Nat.div_pos hlt.le (Nat.pos_of_ne_zero hr)
      have := Nat.mul_le_mul_right x1.natAbs hquot
      omega

/-- The invariant of `xgcd`'s loop on the magnitudes `a` and `b` (R110). -/
structure XgcdInv (a b r0 r1 : Nat) (s0 s1 t0 t1 : Int) : Prop where
  bezout0 : s0 * a + t0 * b = r0
  bezout1 : s1 * a + t1 * b = r1
  boundS : CofactorBound b r0 r1 s0 s1
  boundT : CofactorBound a r0 r1 t0 t1

theorem XgcdInv.init (a b : Nat) : XgcdInv a b a b 1 0 0 1 where
  bezout0 := by ring
  bezout1 := by ring
  boundS := ⟨by simp, by simp, by simp, by simp⟩
  boundT := ⟨by simp, by simp, by simp, by simp⟩

theorem XgcdInv.step {a b r0 r1 : Nat} {s0 s1 t0 t1 : Int} (h : XgcdInv a b r0 r1 s0 s1 t0 t1) (hr : r1 ≠ 0) :
    XgcdInv a b r1 (r0 % r1) s1 (s0 - (r0 / r1 : Nat) * s1) t1 (t0 - (r0 / r1 : Nat) * t1) where
  bezout0 := h.bezout1
  bezout1 := by
    have hdiv : (r1 : Int) * (r0 / r1 : Nat) + (r0 % r1 : Nat) = r0 := by exact_mod_cast Nat.div_add_mod r0 r1
    linear_combination h.bezout0 - (r0 / r1 : Nat) * h.bezout1 - hdiv
  boundS := h.boundS.step hr
  boundT := h.boundT.step hr

/-- With enough fuel the loop ends in its invariant with the second remainder 0. -/
theorem XgcdInv.loop {a b fuel r0 r1 : Nat} {s0 s1 t0 t1 : Int} (h : XgcdInv a b r0 r1 s0 s1 t0 t1) (hfuel : r1 ≤ fuel) :
    ∃ s t, XgcdInv a b (xgcdLoop fuel r0 r1 s0 s1 t0 t1).2.2 0 (xgcdLoop fuel r0 r1 s0 s1 t0 t1).1 s
      (xgcdLoop fuel r0 r1 s0 s1 t0 t1).2.1 t := by
  induction fuel generalizing r0 r1 s0 s1 t0 t1 with
  | zero =>
    cases Nat.le_zero.1 hfuel
    exact ⟨s1, t1, h⟩
  | succ fuel ih =>
    rw [xgcdLoop]
    split
    · next hr =>
      subst hr
      exact ⟨s1, t1, h⟩
    · next hr =>
      have hlt : r0 % r1 < r1 := Nat.mod_lt r0 (Nat.pos_of_ne_zero hr)
      rw [← Nat.mod_eq_sub_div_mul]
      exact ih (h.step hr) (by omega)

/-- Where the second remainder is 0, the coefficient is at most `c` divided by the first one, or 1. -/
theorem CofactorBound.natAbs_le {c r : Nat} {x0 x1 : Int} (h : CofactorBound c r 0 x0 x1) (hr : r ≠ 0) :
    x0.natAbs ≤ max 1 (c / r) := by
  obtain ⟨-, htotal, hsize, -⟩ := h
  have hquot : c / r = x1.natAbs := Nat.div_eq_of_eq_mul_left (Nat.pos_of_ne_zero hr) (by simpa using htotal.symm)
  rwa [hquot]

/-! ## `xgcd` -/

theorem natAbs_sgn (v : Int) : (sgn v).natAbs = 1 := by
  unfold sgn
  split <;> rfl

theorem sgn_mul_self (v : Int) : sgn v * v = v.natAbs := by
  unfold sgn
  split <;> omega

theorem sgn_neg {v : Int} (h : v ≠ 0) : sgn (-v) = -sgn v := by
  unfold sgn
  split <;> split <;> omega

/-- R110: `xgcd` runs its loop on the magnitudes and gives the coefficients the operands' signs. -/
theorem xgcd_eq_loop (u v : Int) : ∃ s t s' t' : Int,
    xgcd u v = (sgn u * s, sgn v * t, (Int.gcd u v : Int)) ∧ XgcdInv u.natAbs v.natAbs (Int.gcd u v) 0 s s' t t' := by
  obtain ⟨s', t', h⟩ := (XgcdInv.init u.natAbs v.natAbs).loop (le_refl v.natAbs)
  have hgcd : (xgcdLoop v.natAbs u.natAbs v.natAbs 1 0 0 1).2.2 = Int.gcd u v := by
    rw [xgcdLoop_remainder, ← gcd_eq, gcd]
  rw [hgcd] at h
  exact ⟨_, _, s', t', by rw [← hgcd]; rfl, h⟩

/-- R109: the coefficients combine the operands to their greatest common divisor. -/
theorem xgcd_bezout (u v : Int) : (xgcd u v).1 * u + (xgcd u v).2.1 * v = Int.gcd u v := by
  obtain ⟨s, t, s', t', heq, hinv⟩ := xgcd_eq_loop u v
  rw [heq, ← hinv.bezout0]
  linear_combination s * sgn_mul_self u + t * sgn_mul_self v

/-- R112(f): the size of the coefficients. For two zeros they are 1 and 0. -/
theorem natAbs_xgcd_le (u v : Int) : (xgcd u v).1.natAbs ≤ max 1 (v.natAbs / Int.gcd u v) ∧
    (xgcd u v).2.1.natAbs ≤ max 1 (u.natAbs / Int.gcd u v) := by
  by_cases hg : Int.gcd u v = 0
  · obtain ⟨rfl, rfl⟩ := Int.gcd_eq_zero_iff.1 hg
    decide
  · obtain ⟨s, t, s', t', heq, hinv⟩ := xgcd_eq_loop u v
    rw [heq]
    simp only [Int.natAbs_mul, natAbs_sgn, one_mul]
    exact ⟨hinv.boundS.natAbs_le hg, hinv.boundT.natAbs_le hg⟩

/-- R112(b). -/
theorem xgcd_zero_right (u : Int) : xgcd u 0 = (sgn u, 0, |u|) := by simp [xgcd, xgcdLoop]

/-- R112(c): the only iteration has the quotient 0 and swaps. -/
theorem xgcd_zero_left {v : Int} (h : v ≠ 0) : xgcd 0 v = (0, sgn v, |v|) := by
  have hend (fuel : Nat) : xgcdLoop fuel v.natAbs 0 0 1 1 0 = (0, 1, v.natAbs) := by cases fuel <;> rfl
  obtain ⟨k, hk⟩ := Nat.exists_eq_succ_of_ne_zero (Int.natAbs_ne_zero.2 h)
  have hloop : xgcdLoop v.natAbs 0 v.natAbs 1 0 0 1 = (0, 1, v.natAbs) := by
    rw [← hend k, hk]
    simp [xgcdLoop]
  simp [xgcd, hloop]

/-- R112(d): the loop runs on the magnitudes, so a sign change of `u` only changes the sign of its coefficient. -/
theorem xgcd_neg_left {u : Int} (v : Int) (h : u ≠ 0) :
    xgcd (-u) v = (-(xgcd u v).1, (xgcd u v).2.1, (xgcd u v).2.2) := by
  simp [xgcd, sgn_neg h]

theorem xgcd_neg_right (u : Int) {v : Int} (h : v ≠ 0) :
    xgcd u (-v) = ((xgcd u v).1, -(xgcd u v).2.1, (xgcd u v).2.2) := by
  simp [xgcd, sgn_neg h]

/-! ## `modinv` -/

/-- R113: the inverse is absent exactly when the arguments are not coprime. -/
theorem modinv_eq_none_iff {a m : Int} : modinv a m = none ↔ Int.gcd a m ≠ 1 := by
  rw [← gcd_eq]
  by_cases h : gcd a m = 1
  · simp [modinv_of_gcd_eq_one h, h]
  · simp [modinv, h]

theorem modinv_of_coprime {a m : Int} (h : Int.gcd a m = 1) : modinv a m = some ((xgcd a m).1 % m) :=
  modinv_of_gcd_eq_one ((gcd_eq a m).trans h)

/-- For coprime arguments the first Bezout coefficient is an inverse (R114). -/
theorem mul_xgcd_emod {a m : Int} (h : Int.gcd a m = 1) : a * ((xgcd a m).1 % m) % m = 1 % m :=
  calc a * ((xgcd a m).1 % m) % m = ((xgcd a m).1 * a + (xgcd a m).2.1 * m) % m := by
        rw [Int.mul_emod, Int.emod_emod, ← Int.mul_emod, Int.add_mul_emod_self_right, mul_comm]
    _ = 1 % m := by rw [xgcd_bezout, h, Nat.cast_one]

/-- An integer with an inverse modulo `m` is coprime to `m`. -/
theorem gcd_eq_one_of_mul_emod {a m x : Int} (h : a * x % m = 1 % m) : Int.gcd a m = 1 := by
  obtain ⟨k, hk⟩ := (Int.ModEq.dvd h : m ∣ 1 - a * x)
  exact Int.isCoprime_iff_gcd_eq_one.1 ⟨x, k, by linear_combination -hk⟩

/-- Two inverses of `a` modulo `m` in `[0, m)` are equal. -/
theorem inverse_unique {a m x y : Int} (hx : 0 ≤ x ∧ x < m) (hy : 0 ≤ y ∧ y < m) (hax : a * x % m = 1 % m)
    (hay : a * y % m = 1 % m) : x = y := by
  have hmod : x ≡ y [ZMOD m] :=
    calc x ≡ x * (a * y) [ZMOD m] := by simpa using (Int.ModEq.mul_left x hay).symm
      _ = y * (a * x) := by ring
      _ ≡ y [ZMOD m] := by simpa using Int.ModEq.mul_left y hax
  rwa [Int.ModEq, Int.emod_eq_of_lt hx.1 hx.2, Int.emod_eq_of_lt hy.1 hy.2] at hmod

/-- R114(a): the result is the one inverse in `[0, m)`. -/
theorem modinv_eq_some_iff {a m x : Int} (hm : 0 < m) :
    modinv a m = some x ↔ 0 ≤ x ∧ x < m ∧ a * x % m = 1 % m := by
  constructor
  · intro h
    have hgcd : Int.gcd a m = 1 := not_not.1 fun hne => by simp [modinv_eq_none_iff.2 hne] at h
    cases h.symm.trans (modinv_of_coprime hgcd)
    exact ⟨Int.emod_nonneg _ hm.ne', Int.emod_lt_of_pos _ hm, mul_xgcd_emod hgcd⟩
  · rintro ⟨h0, hlt, hmul⟩
    have hgcd := gcd_eq_one_of_mul_emod hmul
    rw [modinv_of_coprime hgcd, inverse_unique ⟨Int.emod_nonneg _ hm.ne', Int.emod_lt_of_pos _ hm⟩ ⟨h0, hlt⟩
      (mul_xgcd_emod hgcd) hmul]

/-! ## The end of a command with several results -/

/-- Several writes to different registers are all read back (R17). -/
theorem State.reg_setRegs {s : State} {ws : List (Reg × Int)} (hne : (ws.map Prod.fst).Nodup) {w : Reg × Int}
    (hw : w ∈ ws) : (s.setRegs ws).reg w.1 = w.2 := by
  induction ws generalizing s with
  | nil => cases hw
  | cons w' ws ih =>
    obtain ⟨hnotin, hne⟩ := List.nodup_cons.1 hne
    show ((s.setReg w'.1 w'.2).setRegs ws).reg w.1 = w.2
    rcases List.mem_cons.1 hw with rfl | hw
    · have hkept := (s.setReg w.1 w.2).get_setRegs_other ws fun v hv hv1 =>
        hnotin (List.mem_map.2 ⟨v, hv, hv1⟩)
      rw [State.reg, hkept, State.get_setReg_same, IntReg.value_ofInt]
    · exact ih hne hw

/-- R231: results that fit, for different destinations, are all written, and nothing else is. -/
theorem State.completes_finish_all {s : State} {ws : List (Reg × Int)} (hne : (ws.map Prod.fst).Nodup)
    (hfit : ∀ w ∈ ws, fits s.params w.2 = true) :
    Completes .ok (ws.map Prod.fst) s (s.finish ws) ∧ ∀ w ∈ ws, (s.finish ws).reg w.1 = w.2 := by
  rw [s.finish_of_fits ws hfit, s.setRegs_frame ws]
  refine ⟨⟨rfl, rfl, rfl, rfl, .of_frame rfl, fun r hr => ?_, .refl s⟩, fun w hw => State.reg_setRegs hne hw⟩
  exact s.get_setRegs_other ws fun w hw hwr => hr (List.mem_map.2 ⟨w, hw, hwr⟩)

/-! ## The results fit -/

theorem fits_one (p : Params) : fits p 1 = true :=
  fits_iff.2 fun h => Nat.one_lt_two_pow (by omega)

/-- R106: the greatest common divisor of two values that fit the instance fits it. -/
theorem fits_gcd {p : Params} {u v : Int} (hu : fits p u = true) (hv : fits p v = true) :
    fits p (Int.gcd u v : Int) = true := by
  rcases eq_or_ne u 0 with rfl | h
  · rw [Int.gcd_zero_left]
    exact fits_of_natAbs_le le_rfl hv
  · exact fits_of_natAbs_le (Int.gcd_le_natAbs_left v h) hu

/-- R112(f): a value of a coefficient's size fits where the other operand does. -/
theorem fits_of_natAbs_le_max {p : Params} {c v : Int} {g : Nat} (h : c.natAbs ≤ max 1 (v.natAbs / g))
    (hv : fits p v = true) : fits p c = true := by
  rcases le_max_iff.1 h with hone | hdiv
  · exact fits_of_natAbs_le (v := 1) hone (fits_one p)
  · exact fits_of_natAbs_le (hdiv.trans (Nat.div_le_self ..)) hv

/-- A residue modulo an integer that fits the instance fits it. -/
theorem fits_emod {p : Params} {m : Int} (hm : 0 < m) (h : fits p m = true) (a : Int) : fits p (a % m) = true := by
  have hnonneg := Int.emod_nonneg a hm.ne'
  have hlt := Int.emod_lt_of_pos a hm
  exact fits_of_natAbs_le (by omega) h

/-! ## The commands -/

section
variable (rd : Reg) {rs1 rs2 rs3 : Reg} {s : State}

/-- MODMUL with operands in order (R101). -/
theorem exec_modmul (hm : 0 < s.reg rs3) (ha : 0 ≤ s.reg rs1) (hb : 0 ≤ s.reg rs2) :
    exec (.modmul rd rs1 rs2 rs3) s = .next (s.finish [(rd, s.reg rs1 * s.reg rs2 % s.reg rs3)]) := by
  rw [exec, execModmul, if_neg (by omega), if_neg (by omega), modmul, Int.natCast_mod, Int.natCast_mul,
    Int.toNat_of_nonneg ha, Int.toNat_of_nonneg hb, Int.toNat_of_nonneg hm.le]

/-- MODPOW with operands in order (R104). -/
theorem exec_modpow (hm : 0 < s.reg rs3) (hb : 0 ≤ s.reg rs1) (he : 0 ≤ s.reg rs2) :
    exec (.modpow rd rs1 rs2 rs3) s = .next (s.finish [(rd, s.reg rs1 ^ (s.reg rs2).toNat % s.reg rs3)]) := by
  rw [exec, execModpow, if_neg (by omega), if_neg (by omega), modpow_eq, Int.natCast_mod, Int.natCast_pow,
    Int.toNat_of_nonneg hb, Int.toNat_of_nonneg hm.le]

/-- GCD has no check (R108). -/
theorem exec_gcd : exec (.gcd rd rs1 rs2) s = .next (s.finish [(rd, (Int.gcd (s.reg rs1) (s.reg rs2) : Int))]) := by
  rw [exec, execGcd, gcd_eq]

/-- XGCD has no check but the capacity of its results (R111). -/
theorem exec_xgcd (rd2 rd3 : Reg) : exec (.xgcd rd rd2 rd3 rs1 rs2) s =
    .next (s.finish [(rd, (xgcd (s.reg rs1) (s.reg rs2)).1), (rd2, (xgcd (s.reg rs1) (s.reg rs2)).2.1),
      (rd3, (Int.gcd (s.reg rs1) (s.reg rs2) : Int))]) := by
  rw [← xgcd_snd_snd]
  rfl

/-- MODINV with an inverse (R115). -/
theorem exec_modinv_of_some {x : Int} (hm : 0 < s.reg rs2) (h : modinv (s.reg rs1) (s.reg rs2) = some x) :
    exec (.modinv rd rs1 rs2) s = .next (s.finish [(rd, x)]) := by
  simp [exec, execModinv, hm.not_ge, h]

/-- MODINV without an inverse (R115). -/
theorem exec_modinv_of_none (hm : 0 < s.reg rs2) (h : modinv (s.reg rs1) (s.reg rs2) = none) :
    exec (.modinv rd rs1 rs2) s = .next (s.complete .noInverse) := by
  simp [exec, execModinv, hm.not_ge, h]

end

/-- R228, R238: in each command with a modulus the check of the modulus comes first. -/
theorem exec_of_modulus_nonpos {i : Instr} {m : Reg} {s : State} (hi : i.modulus = some m) (hs : s.phase = .busy .start)
    (hm : s.reg m ≤ 0) : exec i s = .next (s.raise .modulus) := by
  cases i with
  | nop | gcd | xgcd | isprime | genkey | tabrd => cases hi
  | breakmsg rd rs1 rs2 rs3 rs4 =>
    cases hi
    simp only [exec, execBreakmsg, hs]
    exact congrArg Host.Outcome.next (if_pos hm)
  | modmul | modpow | modinv | witness | encrypt | decrypt | buildtab | findmsg =>
    cases hi
    exact if_pos hm

end Sys2Proof.Machine

namespace Sys2Proof

open Sys2Proof.Machine

/-- Settles O8: a residue modulo `m` fits where `m` fits. -/
theorem modmulWritesProduct : Obligations.ModmulWritesProduct :=
  fun rd _ _ _ s hm ha hb hfit => ⟨_, exec_modmul rd hm ha hb, s.completes_finish rd (fits_emod hm hfit _)⟩

/-- Settles O9: the loop of R102 computes the power's residue. -/
theorem modpowWritesPower : Obligations.ModpowWritesPower :=
  fun rd _ _ _ s hm hb he hfit => ⟨_, exec_modpow rd hm hb he, s.completes_finish rd (fits_emod hm hfit _)⟩

/-- Settles O10: the loop of R106 computes the greatest common divisor, which is no larger than an operand. -/
theorem gcdWritesGcd : Obligations.GcdWritesGcd :=
  fun rd _ _ s hu hv => ⟨_, exec_gcd rd, s.completes_finish rd (fits_gcd hu hv)⟩

/-- Settles O11: the coefficients and the gcd are no larger than an operand or 1, so all three fit. -/
theorem xgcdWritesBezoutPair : Obligations.XgcdWritesBezoutPair := by
  intro rd rd2 rd3 rs1 rs2 s hne hu hv
  obtain ⟨hsizeu, hsizev⟩ := natAbs_xgcd_le (s.reg rs1) (s.reg rs2)
  have hnodup : [rd, rd2, rd3].Nodup := by simpa [distinctDestinations, and_assoc] using hne
  obtain ⟨hend, hregs⟩ := State.completes_finish_all (s := s)
    (ws := [(rd, (xgcd (s.reg rs1) (s.reg rs2)).1), (rd2, (xgcd (s.reg rs1) (s.reg rs2)).2.1),
      (rd3, (Int.gcd (s.reg rs1) (s.reg rs2) : Int))]) hnodup
    (by simp [fits_of_natAbs_le_max hsizeu hv, fits_of_natAbs_le_max hsizev hu, fits_gcd hu hv])
  simp only [List.forall_mem_cons] at hregs
  obtain ⟨hcu, hcv, hg, -⟩ := hregs
  refine ⟨_, exec_xgcd rd rd2 rd3, hend, ?_, hg, ?_⟩
  · rw [hcu, hcv, hg, ← xgcd_snd_snd]
  · rw [hcu, hcv, hg, xgcd_bezout]

/-- Settles O12: the bound is that of the loop's invariant, and the signs are put in after the loop. -/
theorem xgcdPairProperties : Obligations.XgcdPairProperties := by
  refine ⟨rfl, fun u _ => xgcd_zero_right u, fun v => xgcd_zero_left, fun u v => xgcd_neg_left v,
    fun u v => xgcd_neg_right u, fun u v _ => ?_⟩
  have hsize := natAbs_xgcd_le u v
  simp only [Int.abs_eq_natAbs]
  exact_mod_cast hsize

/-- Settles O13: the inverse is present exactly for coprime operands, and is a residue modulo `m`, so it fits. -/
theorem modinvWritesInverseOrReports : Obligations.ModinvWritesInverseOrReports := by
  intro rd rs1 rs2 s hm hfit
  constructor
  · intro hgcd
    have hx := modinv_of_coprime hgcd
    obtain ⟨h0, hlt, hmul⟩ := (modinv_eq_some_iff hm).1 hx
    obtain ⟨hend, hreg⟩ := s.completes_finish rd (fits_emod hm hfit (xgcd (s.reg rs1) (s.reg rs2)).1)
    refine ⟨_, exec_modinv_of_some rd hm hx, hend, ?_⟩
    rw [hreg]
    exact ⟨h0, hlt, hmul⟩
  · exact fun hgcd => ⟨_, exec_modinv_of_none rd hm (modinv_eq_none_iff.2 hgcd), s.completes_complete .noInverse []⟩

/-- Settles O14: each value is the inverse that `modinv_eq_some_iff` speaks of. -/
theorem modinvIsTheUniqueInverse : Obligations.ModinvIsTheUniqueInverse := by
  intro m hm
  refine ⟨fun a hgcd => ?_, fun a => modinv_eq_none_iff.2, ?_, ?_, ?_, ?_, ?_, fun h2 => ?_⟩
  · have hx := modinv_of_coprime hgcd
    obtain ⟨h0, hlt, hmul⟩ := (modinv_eq_some_iff hm).1 hx
    exact ⟨_, hx, h0, hlt, hmul, fun y hy0 hylt hy => inverse_unique ⟨hy0, hylt⟩ ⟨h0, hlt⟩ hy hmul⟩
  · rintro a rfl
    exact (modinv_eq_some_iff hm).2 (by simp)
  · rw [modinv_eq_none_iff, Int.gcd_zero_left]
    omega
  · exact (modinv_eq_some_iff (by decide)).2 (by decide)
  · exact (modinv_eq_some_iff (by decide)).2 (by decide)
  · exact (modinv_eq_some_iff hm).2 ⟨Int.emod_nonneg _ hm.ne', Int.emod_lt_of_pos _ hm, by simp⟩
  · refine (modinv_eq_some_iff hm).2 ⟨by omega, by omega, ?_⟩
    rw [show (m - 1) * (m - 1) = 1 + m * (m - 2) by ring, Int.add_mul_emod_self_left]

/-- Settles O40: no other check comes before that of the modulus. -/
theorem modulusIsChecked : Obligations.ModulusIsChecked :=
  fun _ _ s hi hs hm => ⟨_, exec_of_modulus_nonpos hi hs hm, s.faults_raise .modulus⟩

end Sys2Proof
end

section
/-! The Primality Oracle: what `tz` and `witness_test` compute, the draw and one move of the oracle by the state of the port,
the commands WITNESS and ISPRIME, and GENKEY's prime phase. -/

namespace Sys2Proof.Machine

/-! ## The decomposition of `n - 1` -/

/-- `tz`'s loop counts the factors 2 of a positive number, when it is allowed as many steps as the number has bits (R15). -/
theorem eq_odd_mul_two_pow_tzLoop {fuel v : Nat} (hv : v ≠ 0) (hfuel : v < 2 ^ fuel) :
    ∃ q, q % 2 = 1 ∧ v = q * 2 ^ tzLoop fuel v := by
  induction fuel generalizing v with
  | zero => omega
  | succ fuel ih =>
    unfold tzLoop
    split_ifs with heven
    · obtain ⟨q, hodd, hq⟩ := ih (v := v / 2) (by omega) (by omega)
      refine ⟨q, hodd, ?_⟩
      rw [pow_succ, ← mul_assoc, ← hq]
      omega
    · exact ⟨v, by omega, by simp⟩

/-- R130: a positive number is an odd one times `2^tz`. -/
theorem tz_decomposition {v : Nat} (hv : v ≠ 0) : v / 2 ^ tz v % 2 = 1 ∧ v = v / 2 ^ tz v * 2 ^ tz v := by
  obtain ⟨q, hodd, hq⟩ := eq_odd_mul_two_pow_tzLoop hv (lt_two_pow_bitlen v)
  have hdiv : v / 2 ^ tz v = q := Nat.div_eq_of_eq_mul_left (Nat.two_pow_pos _) hq
  rw [hdiv]
  exact ⟨hodd, hq⟩

/-- R130: a positive number has no factor 2 exactly when it is odd. -/
theorem tz_eq_zero_iff {v : Nat} (hv : v ≠ 0) : tz v = 0 ↔ v % 2 = 1 := by
  obtain ⟨hodd, hmul⟩ := tz_decomposition hv
  constructor
  · intro h
    simpa [h] using hodd
  · intro h
    by_contra hne
    have heven : 2 ∣ v := hmul ▸ Dvd.dvd.mul_left (dvd_pow_self 2 hne) _
    omega

/-! ## `witness_test` -/

/-- R132: the loop passes exactly when it meets `n - 1` within the squarings it is allowed. -/
theorem witnessLoop_iff (n k b : Nat) : witnessLoop n k (b % n) = true ↔ ∃ j ≤ k, b ^ 2 ^ j % n = n - 1 := by
  induction k generalizing b with
  | zero => simp [witnessLoop]
  | succ k ih =>
    have hsquare : modmul (b % n) (b % n) n = b ^ 2 % n := by rw [modmul, ← Nat.mul_mod, sq]
    have hshift : ∀ j, (b ^ 2) ^ 2 ^ j = b ^ 2 ^ (j + 1) := fun j => by rw [← pow_mul, pow_succ' 2 j]
    unfold witnessLoop
    split_ifs with hmet
    · exact iff_of_true rfl ⟨0, Nat.zero_le _, by simpa using hmet⟩
    · rw [hsquare, ih]
      simp only [hshift]
      constructor
      · rintro ⟨j, hj, h⟩
        exact ⟨j + 1, by omega, h⟩
      · rintro ⟨_ | j, hj, h⟩
        · exact absurd (by simpa using h) hmet
        · exact ⟨j, by omega, h⟩

/-- R132: the test passes exactly when `a^d` is 1, or one of `a^d, a^(2d), ..., a^(2^(s-1) d)` is `n - 1`, modulo `n`. -/
theorem witnessTest_iff (a s d n : Nat) : witnessTest a s d n = true ↔
    a ^ d % n = 1 ∨ ∃ k < max 1 s, a ^ (d * 2 ^ k) % n = n - 1 := by
  have hbound : ∀ k, k ≤ s - 1 ↔ k < max 1 s := fun k => by omega
  unfold witnessTest
  rw [modpow_eq]
  split_ifs with hone
  · exact iff_of_true rfl (.inl hone)
  · simp only [witnessLoop_iff, hbound, pow_mul, hone, false_or]

/-- The test compares residues as numbers; this is its comparison with 1 in the ring of residues. -/
theorem mod_eq_one_iff {n : Nat} (hn : 2 ≤ n) (m : Nat) : m % n = 1 ↔ (m : ZMod n) = 1 := by
  have h := ZMod.natCast_eq_natCast_iff' m 1 n
  rwa [Nat.mod_eq_of_lt (show 1 < n by omega), Nat.cast_one, Iff.comm] at h

theorem natCast_pred_eq_neg_one {n : Nat} (hn : 2 ≤ n) : ((n - 1 : Nat) : ZMod n) = -1 := by
  rw [Nat.cast_sub (by omega), ZMod.natCast_self, Nat.cast_one, zero_sub]

/-- The test's comparison with `n - 1`, in the ring of residues. -/
theorem mod_eq_pred_iff {n : Nat} (hn : 2 ≤ n) (m : Nat) : m % n = n - 1 ↔ (m : ZMod n) = -1 := by
  rw [← natCast_pred_eq_neg_one hn, ZMod.natCast_eq_natCast_iff', Nat.mod_eq_of_lt (show n - 1 < n by omega)]

/-- R132 in the ring of residues modulo `n`, where `n - 1` is -1. -/
theorem witnessTest_iff_zmod {n : Nat} (hn : 2 ≤ n) (a s d : Nat) : witnessTest a s d n = true ↔
    (a : ZMod n) ^ d = 1 ∨ ∃ k < max 1 s, (a : ZMod n) ^ (d * 2 ^ k) = -1 := by
  simp only [witnessTest_iff, mod_eq_one_iff hn, mod_eq_pred_iff hn, Nat.cast_pow]

/-- Where 1 has no square roots but 1 and -1, repeated squaring reaches 1 by way of -1, or starts at 1. -/
theorem eq_one_or_pow_two_pow_eq_neg_one {R : Type*} [Ring R] [NoZeroDivisors R] {y : R} {s : Nat} (h : y ^ 2 ^ s = 1) :
    y = 1 ∨ ∃ k < s, y ^ 2 ^ k = -1 := by
  induction s with
  | zero => exact .inl (by simpa using h)
  | succ s ih =>
    rw [pow_succ, pow_mul, sq_eq_one_iff] at h
    rcases h with hone | hneg
    · exact (ih hone).imp_right fun ⟨k, hk, hpow⟩ => ⟨k, by omega, hpow⟩
    · exact .inr ⟨s, by omega, hneg⟩

/-- R133(c): a prime passes every witness in `[1, n - 1]`, by Fermat's theorem. -/
theorem witnessTest_of_prime {n a : Nat} (hn : n.Prime) (ha : 1 ≤ a) (hlt : a < n) :
    witnessTest a (tz (n - 1)) ((n - 1) / 2 ^ tz (n - 1)) n = true := by
  have : Fact n.Prime := ⟨hn⟩
  have htwo := hn.two_le
  obtain ⟨-, hmul⟩ := tz_decomposition (v := n - 1) (by omega)
  have hne : (a : ZMod n) ≠ 0 := by
    rw [Ne, ZMod.natCast_eq_zero_iff]
    exact Nat.not_dvd_of_pos_of_lt ha hlt
  have hfermat := ZMod.pow_card_sub_one_eq_one hne
  rw [hmul, pow_mul] at hfermat
  rw [witnessTest_iff_zmod htwo]
  refine (eq_one_or_pow_two_pow_eq_neg_one hfermat).imp_right fun ⟨k, hk, hpow⟩ => ⟨k, lt_max_of_lt_right hk, ?_⟩
  rw [pow_mul, hpow]

/-- R131, R132 for the operands of WITNESS, which are integers. -/
theorem witnessTest_toNat_iff {a n : Int} (ha : 0 ≤ a) (hn : 0 < n) (k d : Nat) :
    witnessTest a.toNat k d n.toNat = true ↔
      a ^ d % n = 1 ∨ ∃ j < max 1 k, a ^ (d * 2 ^ j) % n = n - 1 := by
  lift a to Nat using ha
  lift n to Nat using hn.le
  have hpred : (n : Int) - 1 = (n - 1 : Nat) := (Nat.cast_pred (by exact_mod_cast hn)).symm
  rw [witnessTest_iff, hpred, Int.toNat_natCast, Int.toNat_natCast]
  norm_cast

/-! ## Results that are Booleans -/

@[simp] theorem boolValue_eq_one_iff (b : Bool) : boolValue b = 1 ↔ b = true := by cases b <;> decide

theorem boolValue_eq_one_or_zero (b : Bool) : boolValue b = 1 ∨ boolValue b = 0 := by cases b <;> decide

/-- R33: a Boolean result fits every instance. -/
theorem fits_boolValue (p : Params) (b : Bool) : fits p (boolValue b) = true := by
  cases b with
  | true => exact fits_one p
  | false => exact fits_zero p

/-- A command with a Boolean result always completes with it (R33, R231). -/
theorem State.completes_finish_boolValue (s : State) (rd : Reg) (b : Bool) :
    Completes .ok [rd] s (s.finish [(rd, boolValue b)]) ∧ (s.finish [(rd, boolValue b)]).reg rd = boolValue b :=
  s.completes_finish rd (fits_boolValue s.params b)

/-! ## The draw and the oracle's move, by the state of the port -/

section
variable {s : State} {l h v : Int}

theorem State.draw_of_free (hp : s.port = .free) (lo hi : Int) :
    s.draw lo hi = .wait { s with port := .asked lo hi } := by
  simp [State.draw, hp]

theorem State.draw_of_asked (hp : s.port = .asked l h) (lo hi : Int) : s.draw lo hi = .wait s := by
  simp [State.draw, hp]

theorem State.draw_of_answered (hp : s.port = .answered l h v) (hl : l ≤ v) (hh : v ≤ h) (lo hi : Int) :
    s.draw lo hi = .value v { s with port := .free } := by
  simp [State.draw, hp, hl, hh]

variable {o : Oracle}

/-- R136: all rounds have passed. -/
theorem State.oracleMove_of_lt (hr : s.rounds.toNat < o.round) : s.oracleMove o = .verdict true s := by
  simp [State.oracleMove, hr]

section
variable (hr : o.round ≤ s.rounds.toNat)
include hr

/-- R245: a round requests its draw. -/
theorem State.oracleMove_of_free (hp : s.port = .free) :
    s.oracleMove o = .stop { s with port := .asked 0 (o.n - 1) } := by
  simp [State.oracleMove, hr.not_gt, State.draw_of_free hp]

/-- R245: a round waits for its answer. -/
theorem State.oracleMove_of_asked (hp : s.port = .asked l h) : s.oracleMove o = .stop s := by
  simp [State.oracleMove, hr.not_gt, State.draw_of_asked hp]

variable (hp : s.port = .answered l h v) (hl : l ≤ v) (hh : v ≤ h)
include hp hl hh

/-- R134: a zero answer is discarded. -/
theorem State.oracleMove_of_zero (hv : v = 0) : s.oracleMove o = .again o { s with port := .free } := by
  simp [State.oracleMove, hr.not_gt, State.draw_of_answered hp hl hh, hv]

/-- R137: a passing witness ends its round. -/
theorem State.oracleMove_of_pass (hv : v ≠ 0) (hw : witnessTest v.toNat o.s o.d o.n = true) :
    s.oracleMove o = .again { o with round := o.round + 1 } { s with port := .free } := by
  simp [State.oracleMove, hr.not_gt, State.draw_of_answered hp hl hh, hv, hw]

/-- R137: the first failing witness decides. -/
theorem State.oracleMove_of_fail (hv : v ≠ 0) (hw : witnessTest v.toNat o.s o.d o.n = false) :
    s.oracleMove o = .verdict false { s with port := .free } := by
  simp [State.oracleMove, hr.not_gt, State.draw_of_answered hp hl hh, hv, hw]

end

end

/-- R130, R134: from 3 on the oracle enters its loop with the decomposition of `n - 1`. -/
theorem enterOracle_of_three_le {n : Int} (h : 3 ≤ n) : enterOracle n =
    .rounds ⟨n.toNat, tz (n.toNat - 1), (n.toNat - 1) / 2 ^ tz (n.toNat - 1), 1⟩ := by
  rw [enterOracle, if_neg (by omega), if_neg (by omega)]

/-- R134, R138: up to 2 the oracle decides at once, for 2 only that it is prime. -/
theorem enterOracle_of_le_two {n : Int} (h : n ≤ 2) : enterOracle n = .decided (decide (n = 2)) := by
  rcases enterOracle_cases n with ⟨hlt, heq⟩ | ⟨htwo, heq⟩ | ⟨hge, -⟩
  · rw [heq, decide_eq_false hlt.ne]
  · rw [heq, decide_eq_true htwo]
  · omega

/-! ## WITNESS and ISPRIME -/

/-- WITNESS with operands in order (R131). -/
theorem exec_witness (rd : Reg) {rs1 rs2 rs3 rs4 : Reg} {s : State} (hn : 0 < s.reg rs4) (ha : 0 ≤ s.reg rs1)
    (hk : 0 ≤ s.reg rs2) (hd : 0 ≤ s.reg rs3) : exec (.witness rd rs1 rs2 rs3 rs4) s =
      .next (s.finish [(rd, boolValue
        (witnessTest (s.reg rs1).toNat (s.reg rs2).toNat (s.reg rs3).toNat (s.reg rs4).toNat))]) := by
  rw [exec, execWitness, if_neg (by omega), if_neg (by omega)]

section
variable (rd rs1 : Reg) {s : State}

theorem exec_isprime_start (hs : s.phase = .busy .start) :
    exec (.isprime rd rs1) s = .next (isprimeStart rd rs1 s) := by
  simp [exec, execIsprime, hs]

theorem exec_isprime_loop {o : Oracle} (hs : s.phase = .busy (.oracle o)) :
    exec (.isprime rd rs1) s = .next (isprimeLoop rd o s) := by
  simp [exec, execIsprime, hs]

/-- ISPRIME of a number up to 2 (R134, R135). -/
theorem exec_isprime_of_le_two (hs : s.phase = .busy .start) (hr : s.rounds ≠ 0) (hn : s.reg rs1 ≤ 2) :
    exec (.isprime rd rs1) s = .next (s.finish [(rd, boolValue (decide (s.reg rs1 = 2)))]) := by
  rw [exec_isprime_start rd rs1 hs, isprimeStart, if_neg hr, enterOracle_of_le_two hn]

/-- ISPRIME of a number from 3 on (R134, R135). -/
theorem exec_isprime_of_three_le (hs : s.phase = .busy .start) (hr : s.rounds ≠ 0) (hn : 3 ≤ s.reg rs1) :
    exec (.isprime rd rs1) s = .next { s with phase := .busy (.oracle ⟨(s.reg rs1).toNat, tz ((s.reg rs1).toNat - 1),
      ((s.reg rs1).toNat - 1) / 2 ^ tz ((s.reg rs1).toNat - 1), 1⟩) } := by
  rw [exec_isprime_start rd rs1 hs, isprimeStart, if_neg hr, enterOracle_of_three_le hn]
  rfl

variable {o : Oracle} {t : State}

theorem isprimeLoop_of_stop (h : s.oracleMove o = .stop t) : isprimeLoop rd o s = t := by
  simp [isprimeLoop, h]

theorem isprimeLoop_of_again {o' : Oracle} (h : s.oracleMove o = .again o' t) :
    isprimeLoop rd o s = t.continueWith (.oracle o') := by
  simp [isprimeLoop, h]

/-- ISPRIME ends with the oracle's verdict, whatever the port held (R135). -/
theorem isprimeLoop_of_verdict {b : Bool} {p : Port} (h : s.oracleMove o = .verdict b { s with port := p }) :
    isprimeLoop rd o s = s.finish [(rd, boolValue b)] := by
  rw [← s.finish_port p]
  simp [isprimeLoop, h]

end

/-! ## GENKEY's prime phase -/

/-- The port of a running command changes, its working registers do not. -/
theorem State.busy_setPort {s : State} {w : Work} (hs : s.phase = .busy w) (p : Port) :
    ({ s with port := p, phase := .busy w } : State) = { s with port := p } := by
  rw [← hs]

section
variable {σ : Side} {g : KeyWork} {s t : State}

/-- R152: a valid side is skipped. -/
theorem keySide_of_accepted (h : g.accepted σ ≠ none) :
    keySide σ g s = s.continueWith (.keygen { g with stage := afterSide σ }) := by
  obtain ⟨v, hv⟩ := Option.ne_none_iff_exists'.1 h
  simp [keySide, hv]

theorem keyCandidate_of_wait (hd : s.draw g.lower g.upper = .wait t) : keyCandidate σ g s = t := by
  simp [keyCandidate, hd]

section
variable {v : Int} (hd : s.draw g.lower g.upper = .value v t)
include hd

/-- R134, R152: the oracle decides the candidate at once. -/
theorem keyCandidate_of_decided {b : Bool} (h : enterOracle v = .decided b) :
    keyCandidate σ g s = t.continueWith (.keygen (g.tested σ v b)) := by
  simp [keyCandidate, hd, h]

/-- R134, R152: the candidate goes through the oracle's rounds. -/
theorem keyCandidate_of_rounds {o : Oracle} (h : enterOracle v = .rounds o) :
    keyCandidate σ g s = t.continueWith (.keygen { g with stage := .test σ o }) := by
  simp [keyCandidate, hd, h]

end

section
variable {o : Oracle}

theorem keyTest_of_stop (h : s.oracleMove o = .stop t) : keyTest σ o g s = t := by
  simp [keyTest, h]

theorem keyTest_of_again {o' : Oracle} (h : s.oracleMove o = .again o' t) :
    keyTest σ o g s = t.continueWith (.keygen { g with stage := .test σ o' }) := by
  simp [keyTest, h]

theorem keyTest_of_verdict {b : Bool} (h : s.oracleMove o = .verdict b t) :
    keyTest σ o g s = t.continueWith (.keygen (g.tested σ o.n b)) := by
  simp [keyTest, h]

end

variable (rd rd2 rd3 : Reg) {rs1 rs2 : Reg}

/-- GENKEY's checks pass to the first side (R151). -/
theorem exec_genkey_start (hs : s.phase = .busy .start) (hr : s.rounds ≠ 0) (hlo : 0 ≤ s.reg rs1)
    (hle : s.reg rs1 ≤ s.reg rs2) : exec (.genkey rd rd2 rd3 rs1 rs2) s =
      .next { s with phase := .busy (.keygen ⟨s.reg rs1, s.reg rs2, 0, none, none, .side .p⟩) } := by
  have hstart : genkeyStart rs1 rs2 s =
      s.continueWith (.keygen ⟨s.reg rs1, s.reg rs2, 0, none, none, .side .p⟩) := by
    rw [genkeyStart, if_neg hr, if_neg (by omega), if_neg (by omega)]
  simp only [exec, execGenkey, hs, hstart]
  rfl

section
variable (rs1 rs2) (hs : s.phase = .busy (.keygen g))
include hs

theorem exec_genkey_side (hg : g.stage = .side σ) :
    exec (.genkey rd rd2 rd3 rs1 rs2) s = .next (keySide σ g s) := by
  simp only [exec, execGenkey, genkeyMove, hs, hg]

theorem exec_genkey_candidate (hg : g.stage = .candidate σ) :
    exec (.genkey rd rd2 rd3 rs1 rs2) s = .next (keyCandidate σ g s) := by
  simp only [exec, execGenkey, genkeyMove, hs, hg]

theorem exec_genkey_test {o : Oracle} (hg : g.stage = .test σ o) :
    exec (.genkey rd rd2 rd3 rs1 rs2) s = .next (keyTest σ o g s) := by
  simp only [exec, execGenkey, genkeyMove, hs, hg]

end

end

/-! ## What a draw leaves -/

section
variable {s t : State} {lo hi v : Int}

/-- R245, R246: a draw that takes no answer leaves the phase, or raises F_RNG. -/
theorem State.phase_of_draw (h : s.draw lo hi = .wait t ∨ s.draw lo hi = .bad t) :
    t.phase = s.phase ∨ t.phase = .faulted .rng := by
  rcases s.draw_cases lo hi with ⟨-, hd⟩ | ⟨_, _, -, hd⟩ | ⟨_, _, _, -, -, hd⟩ | ⟨_, _, _, -, -, -, hd⟩ <;>
    rw [hd] at h <;> rcases h with h | h <;> cases h
  · exact .inl rfl
  · exact .inl rfl
  · exact .inr rfl

/-- R246: where the port holds the draw's own request, the answer taken is in the draw's range. -/
theorem State.draw_value_mem (hrange : ∀ range, s.port.range = some range → range = (lo, hi))
    (hd : s.draw lo hi = .value v t) : lo ≤ v ∧ v ≤ hi := by
  rcases s.draw_cases lo hi with ⟨-, hd'⟩ | ⟨_, _, -, hd'⟩ | ⟨_, _, _, -, -, hd'⟩ | ⟨l, h, _, hp, hl, hh, hd'⟩ <;>
    rw [hd'] at hd <;> cases hd
  cases hrange (l, h) (by rw [hp]; rfl)
  exact ⟨hl, hh⟩

end

/-- R133, R138(c): in the oracle's rounds over an odd prime, a non-zero answer in the draw's range passes. -/
theorem State.drawn_witness_passes {s t : State} {o : Oracle} {a : Int} (ho : OracleOk o) (hprime : o.n.Prime)
    (hrange : ∀ range, s.port.range = some range → range = (0, (o.n : Int) - 1))
    (hdraw : s.draw 0 (o.n - 1) = .value a t) (ha : a ≠ 0) : witnessTest a.toNat o.s o.d o.n = true := by
  obtain ⟨hlo, hhi⟩ := State.draw_value_mem hrange hdraw
  obtain ⟨-, hs, hd⟩ := ho
  rw [hd, hs]
  exact witnessTest_of_prime hprime (by omega) (by omega)

end Sys2Proof.Machine

namespace Sys2Proof

open Sys2Proof.Machine

/-- Settles O15: the powers the test's loop goes through are residues modulo `n`. -/
theorem witnessWritesVerdict : Obligations.WitnessWritesVerdict := by
  intro rd rs1 rs2 rs3 rs4 s hn ha hk hd
  obtain ⟨hend, hreg⟩ := s.completes_finish_boolValue rd
    (witnessTest (s.reg rs1).toNat (s.reg rs2).toNat (s.reg rs3).toNat (s.reg rs4).toNat)
  refine ⟨_, exec_witness rd hn ha hk hd, hend, ?_⟩
  rw [hreg]
  exact ⟨boolValue_eq_one_or_zero _, (boolValue_eq_one_iff _).trans (witnessTest_toNat_iff ha hn _ _)⟩

/-- Settles O16. -/
theorem decompositionOfCandidate : Obligations.DecompositionOfCandidate := by
  constructor
  · intro n hn
    have hne : n - 1 ≠ 0 := by omega
    obtain ⟨hodd, hmul⟩ := tz_decomposition hne
    exact ⟨hodd, (Nat.odd_iff.2 hodd).pos, hmul, (tz_eq_zero_iff hne).trans (by omega)⟩
  · have hexamples : ∀ x ∈ [(13, 2, 3), (221, 2, 55), (561, 4, 35), (3, 1, 1), (4, 0, 3)],
        tz (x.1 - 1) = x.2.1 ∧ (x.1 - 1) / 2 ^ tz (x.1 - 1) = x.2.2 := by decide
    exact fun n k d h => hexamples (n, k, d) h

/-- Settles O17: 1 stays 1, an odd power of -1 is -1, and Fermat's theorem for a prime. -/
theorem primesPassEveryWitness : Obligations.PrimesPassEveryWitness := by
  intro n hn
  obtain ⟨hodd, -⟩ := tz_decomposition (v := n - 1) (by omega)
  refine ⟨?_, ?_, fun hprime a ha hle => witnessTest_of_prime hprime ha (by omega)⟩
  · rw [witnessTest_iff_zmod (by omega)]
    exact .inl (by simp)
  · rw [witnessTest_iff_zmod (by omega), natCast_pred_eq_neg_one (by omega)]
    refine .inr ⟨0, by simp, ?_⟩
    rw [pow_zero, mul_one, (Nat.odd_iff.2 hodd).neg_one_pow]

/-- Settles O19: the verdict of the oracle's move is ISPRIME's result. -/
theorem isprimeCompletes : Obligations.IsprimeCompletes := by
  intro rd rs1 s o hs
  have hexec := exec_isprime_loop rd rs1 hs
  constructor
  · intro hlt
    rw [isprimeLoop_of_verdict rd (p := s.port) (State.oracleMove_of_lt hlt)] at hexec
    exact ⟨_, hexec, s.completes_finish_boolValue rd true⟩
  · intro lo hi a hle hp hlo hhi hne hfail
    rw [isprimeLoop_of_verdict rd (State.oracleMove_of_fail hle hp hlo hhi hne hfail)] at hexec
    exact ⟨_, hexec, s.completes_finish_boolValue rd false⟩

/-- Settles O20: the entry, and the oracle's move by the port and the answer. -/
theorem isprimeGoesOn : Obligations.IsprimeGoesOn := by
  constructor
  · intro rd rs1 s hs hr hn
    exact ⟨_, exec_isprime_of_three_le rd rs1 hs hr hn, Int.toNat_of_nonneg (by omega), rfl, rfl, rfl⟩
  · intro rd rs1 s o hs hle
    rw [exec_isprime_loop rd rs1 hs]
    refine ⟨fun hp => ?_, fun lo hi hp => ?_, fun lo hi a hp hlo hhi => ⟨fun ha => ?_, fun ha hw => ?_⟩⟩
    · rw [isprimeLoop_of_stop rd (State.oracleMove_of_free hle hp)]
    · rw [isprimeLoop_of_stop rd (State.oracleMove_of_asked hle hp)]
    · rw [isprimeLoop_of_again rd (State.oracleMove_of_zero hle hp hlo hhi ha)]
      exact congrArg _ (State.busy_setPort hs .free)
    · rw [isprimeLoop_of_again rd (State.oracleMove_of_pass hle hp hlo hhi ha hw)]
      rfl

/-- Settles O21: the number's rounds all pass, and no move but the verdict ends the command. -/
theorem isprimeAcceptsEveryPrime : Obligations.IsprimeAcceptsEveryPrime := by
  intro rd rs1 s t o hs ho hprime hrange hexec
  have goesOn {u : State} {k : Nat} (hu : u.phase = .busy (.oracle { o with round := k })) :
      (u.phase = .idle → u.reg rd = 1) ∧ ∀ o', u.phase = .busy (.oracle o') → o'.n = o.n ∧ OracleOk o' := by
    rw [hu]
    refine ⟨nofun, ?_⟩
    rintro _ ⟨⟩
    exact ⟨rfl, ho⟩
  cases (exec_isprime_loop rd rs1 hs).symm.trans hexec
  rcases s.oracleMove_cases o with
    ⟨-, h⟩ | ⟨-, u, hdraw, h⟩ | ⟨-, a, u, hdraw, ⟨-, h⟩ | ⟨-, -, h⟩ | ⟨ha, hfail, -⟩⟩
  · obtain ⟨hend, hreg⟩ := s.completes_finish_boolValue rd true
    rw [isprimeLoop_of_verdict rd (p := s.port) h, hend.phase]
    exact ⟨fun _ => hreg, nofun⟩
  · rw [isprimeLoop_of_stop rd h]
    rcases State.phase_of_draw hdraw with hphase | hphase
    · exact goesOn (hphase.trans hs)
    · rw [hphase]
      exact ⟨nofun, nofun⟩
  · rw [isprimeLoop_of_again rd h]
    exact goesOn rfl
  · rw [isprimeLoop_of_again rd h]
    exact goesOn rfl
  · rw [State.drawn_witness_passes ho hprime hrange hdraw ha] at hfail
    cases hfail

/-- Settles O25: each stage's move, by the state of the port and the oracle's answer. -/
theorem genkeySamplesCandidates : Obligations.GenkeySamplesCandidates := by
  refine ⟨fun rd rd2 rd3 rs1 rs2 s hs hr hlo hle => exec_genkey_start rd rd2 rd3 hs hr hlo hle, ?_⟩
  intro rd rd2 rd3 rs1 rs2 s g σ after valid hs hσ goesOn
  have haccepted (v : Int) : g.tested σ v true = valid v := by
    rcases hσ with ⟨rfl, rfl, hvalid⟩ | ⟨rfl, rfl, hvalid⟩ <;> exact (hvalid v).symm
  obtain rfl : afterSide σ = after := by
    rcases hσ with ⟨rfl, rfl, -⟩ | ⟨rfl, rfl, -⟩ <;> rfl
  refine ⟨fun hg hacc => ?_, fun hg => ?_, fun o hg => ?_⟩
  · exact (exec_genkey_side rd rd2 rd3 rs1 rs2 hs hg).trans (congrArg _ (keySide_of_accepted hacc))
  · have hexec := exec_genkey_candidate rd rd2 rd3 rs1 rs2 hs hg
    refine ⟨fun hp => ?_, fun lo hi hp => ?_, fun lo hi v hp hlo hhi => ?_⟩
    · rw [keyCandidate_of_wait (State.draw_of_free hp _ _), ← State.busy_setPort hs] at hexec
      exact hexec
    · rwa [keyCandidate_of_wait (State.draw_of_asked hp _ _)] at hexec
    · have hdraw := State.draw_of_answered hp hlo hhi g.lower g.upper
      refine ⟨fun hv => ?_, fun hv => ?_, fun hv => ?_⟩
      · rw [keyCandidate_of_decided hdraw (enterOracle_of_le_two (by omega)), decide_eq_false hv.ne] at hexec
        exact hexec
      · rw [keyCandidate_of_decided hdraw (enterOracle_of_le_two hv.le), decide_eq_true hv, haccepted] at hexec
        exact hexec
      · exact hexec.trans (congrArg _ (keyCandidate_of_rounds hdraw (enterOracle_of_three_le hv)))
  · have hexec := exec_genkey_test rd rd2 rd3 rs1 rs2 hs hg
    refine ⟨fun hlt => ?_, fun hle hp => ?_, fun lo hi hle hp => ?_, fun lo hi a hle hp hlo hhi =>
      ⟨fun ha => ?_, fun ha hw => ?_, fun ha hw => ?_⟩⟩
    · rw [keyTest_of_verdict (State.oracleMove_of_lt hlt), haccepted] at hexec
      exact hexec
    · rw [keyTest_of_stop (State.oracleMove_of_free hle hp), ← State.busy_setPort hs] at hexec
      exact hexec
    · rwa [keyTest_of_stop (State.oracleMove_of_asked hle hp)] at hexec
    · rw [keyTest_of_again (State.oracleMove_of_zero hle hp hlo hhi ha), ← hg] at hexec
      exact hexec
    · exact hexec.trans (congrArg _ (keyTest_of_again (State.oracleMove_of_pass hle hp hlo hhi ha hw)))
    · exact hexec.trans (congrArg _ (keyTest_of_verdict (State.oracleMove_of_fail hle hp hlo hhi ha hw)))

/-- Settles O18. -/
theorem isprimeSmallNumbers : Obligations.IsprimeSmallNumbers := by
  intro rd rs1 s hs hr hn
  obtain ⟨hend, hreg⟩ := s.completes_finish_boolValue rd (decide (s.reg rs1 = 2))
  exact ⟨_, exec_isprime_of_le_two rd rs1 hs hr hn, hend, by simpa [boolValue] using hreg⟩

end Sys2Proof
end

section
/-! The Key Generator: its checks, the attempt limit, the end of a pass, the exponent and the key it delivers; and that
a message comes back from ENCRYPT and DECRYPT under a key of two different primes. -/

namespace Sys2Proof.Machine

/-! ## The checks of the operands -/

/-- R229, R238: once ROUNDS and the modulus are in order, a negative operand that must not be raises F_OPERAND. -/
theorem exec_of_operand_neg {i : Instr} {s : State} (hs : s.phase = .busy .start) (hr : i.draws = true → s.rounds ≠ 0)
    (hm : ∀ m, i.modulus = some m → 0 < s.reg m) (hneg : ∃ r ∈ i.nonNegative, s.reg r < 0) :
    exec i s = .next (s.raise .operand) := by
  cases i <;> simp only [Instr.nonNegative, List.mem_cons, List.not_mem_nil, or_false, exists_eq_or_imp,
    exists_eq_left, false_and, exists_false] at hneg
  case genkey =>
    simp only [exec, execGenkey, hs]
    exact congrArg Host.Outcome.next ((if_neg (hr rfl)).trans (if_pos hneg))
  case breakmsg =>
    simp only [exec, execBreakmsg, hs]
    exact congrArg Host.Outcome.next ((if_neg (hm _ rfl).not_ge).trans (if_pos hneg))
  case modpow | decrypt => exact (if_neg (hm _ rfl).not_ge).trans (if_pos hneg.symm)
  case modmul | witness | encrypt | buildtab | findmsg => exact (if_neg (hm _ rfl).not_ge).trans (if_pos hneg)

/-- R163, R238: GENKEY raises F_OPERAND where the range of its candidates is empty. -/
theorem exec_genkey_of_lt (rd rd2 rd3 : Reg) {rs1 rs2 : Reg} {s : State} (hs : s.phase = .busy .start)
    (hr : s.rounds ≠ 0) (hlt : s.reg rs2 < s.reg rs1) :
    exec (.genkey rd rd2 rd3 rs1 rs2) s = .next (s.raise .operand) := by
  have hstart : genkeyStart rs1 rs2 s = s.raise .operand := by
    rw [genkeyStart, if_neg hr, if_pos hlt, ite_self]
  simp only [exec, execGenkey, hs, hstart]

/-! ## GENKEY's moves outside its draws of candidates -/

section
variable {g : KeyWork} {s t : State}

section
variable {σ : Side} (hacc : g.accepted σ = none)
include hacc

/-- R153: a side that is not valid gives up at the attempt limit. -/
theorem keySide_of_limit (hk : s.kglimit ≠ 0) (ha : g.attempts = s.kglimit.toNat) :
    keySide σ g s = s.complete .noPrime := by
  simp only [keySide, hacc]
  exact if_pos ⟨hk, ha⟩

/-- R153: short of the limit, or without one, the candidate to come is counted. -/
theorem keySide_of_below_limit (h : s.kglimit = 0 ∨ g.attempts ≠ s.kglimit.toNat) : keySide σ g s =
    s.continueWith (.keygen { g with attempts := g.attempts + 1, stage := .candidate σ }) := by
  simp only [keySide, hacc]
  exact if_neg fun ⟨hk, ha⟩ => h.elim hk (· ha)

end

/-- R151: unless both sides are valid another pass begins. -/
theorem keyJudge_of_none (h : g.p = none ∨ g.q = none) :
    keyJudge g s = s.continueWith (.keygen { g with stage := .side .p }) := by
  unfold keyJudge
  split
  · next hp hq => simp [hp, hq] at h
  · rfl
  · rfl
  · rfl

section
variable {p q : Int} (hp : g.p = some p) (hq : g.q = some q)
include hp hq

/-- R154: equal candidates invalidate the `q` side. -/
theorem keyJudge_of_eq (h : p = q) :
    keyJudge g s = s.continueWith (.keygen { g with q := none, stage := .side .p }) := by
  simp only [keyJudge, hp, hq]
  exact if_neg (not_not_intro h)

/-- R151: two different candidates end the prime phase. -/
theorem keyJudge_of_ne (hne : p ≠ q) : keyJudge g s = keyModulus p q g s := by
  simp only [keyJudge, hp, hq]
  exact if_pos hne

/-- R157: no integer lies in the exponent interval. -/
theorem keyJudge_of_empty (hne : p ≠ q) (h : (p - 1) * (q - 1) - 1 < (clog2 (p * q).toNat : Int) + 1) :
    keyJudge g s = s.complete .noExponent :=
  (keyJudge_of_ne hp hq hne).trans (if_pos h)

/-- R155, R156: the exponent is to be drawn. -/
theorem keyJudge_of_nonempty (hne : p ≠ q) (h : (clog2 (p * q).toNat : Int) + 1 ≤ (p - 1) * (q - 1) - 1) :
    keyJudge g s = s.continueWith
      (.keygen { g with stage := .exponent (p * q) ((p - 1) * (q - 1)) (clog2 (p * q).toNat) }) :=
  (keyJudge_of_ne hp hq hne).trans (if_neg h.not_gt)

end

section
variable {n phi e : Int} {l : Nat}

theorem keyExponent_of_wait (hd : s.draw (l + 1) (phi - 1) = .wait t) : keyExponent n phi l g s = t := by
  simp [keyExponent, hd]

/-- R156: an exponent coprime to `phi` is accepted. -/
theorem keyExponent_of_coprime (hd : s.draw (l + 1) (phi - 1) = .value e t) (h : Int.gcd e phi = 1) :
    keyExponent n phi l g s = t.continueWith (.keygen { g with stage := .inverse n phi l e }) := by
  simp [keyExponent, hd, gcd_eq, h]

/-- R156: any other exponent is discarded. -/
theorem keyExponent_of_not_coprime (hd : s.draw (l + 1) (phi - 1) = .value e t) (h : Int.gcd e phi ≠ 1) :
    keyExponent n phi l g s = t.continueWith (.keygen { g with stage := .exponent n phi l }) := by
  simp [keyExponent, hd, gcd_eq, h]

end

section
variable (rd rd2 rd3 rs1 rs2 : Reg) (hs : s.phase = .busy (.keygen g))
include hs

theorem exec_genkey_move : exec (.genkey rd rd2 rd3 rs1 rs2) s = .next (genkeyMove rd rd2 rd3 g s) := by
  simp only [exec, execGenkey, hs]

theorem exec_genkey_judge (hg : g.stage = .judge) :
    exec (.genkey rd rd2 rd3 rs1 rs2) s = .next (keyJudge g s) := by
  simp only [exec_genkey_move rd rd2 rd3 rs1 rs2 hs, genkeyMove, hg]

theorem exec_genkey_exponent {n phi : Int} {l : Nat} (hg : g.stage = .exponent n phi l) :
    exec (.genkey rd rd2 rd3 rs1 rs2) s = .next (keyExponent n phi l g s) := by
  simp only [exec_genkey_move rd rd2 rd3 rs1 rs2 hs, genkeyMove, hg]

end

end

/-! ## How GENKEY can end -/

section
variable {g : KeyWork} {s : State}

/-- R153: the head of a side goes on, or ends the command at an attempt limit that is not 0. -/
theorem keySide_cases (σ : Side) (g : KeyWork) (s : State) :
    (∃ g', keySide σ g s = s.continueWith (.keygen g')) ∨
    (s.kglimit ≠ 0 ∧ g.attempts = s.kglimit.toNat ∧ keySide σ g s = s.complete .noPrime) := by
  unfold keySide
  split
  · exact .inl ⟨_, rfl⟩
  · split_ifs with hlimit
    · exact .inr ⟨hlimit.1, hlimit.2, rfl⟩
    · exact .inl ⟨_, rfl⟩

/-- R151, R154, R157: the end of a pass goes on, or ends the command for want of an exponent. -/
theorem keyJudge_cases (g : KeyWork) (s : State) :
    (∃ g', keyJudge g s = s.continueWith (.keygen g')) ∨ keyJudge g s = s.complete .noExponent := by
  unfold keyJudge
  split
  · simp only [keyModulus]
    split_ifs
    · exact .inr rfl
    · exact .inl ⟨_, rfl⟩
    · exact .inl ⟨_, rfl⟩
  all_goals exact .inl ⟨_, rfl⟩

/-- R159: phase INVERSE goes on, or ends the command with its results. -/
theorem keyInverse_cases (rd rd2 rd3 : Reg) (n phi : Int) (l : Nat) (e : Int) (g : KeyWork) (s : State) :
    (∃ g', keyInverse rd rd2 rd3 n phi l e g s = s.continueWith (.keygen g')) ∨
    ∃ ws, keyInverse rd rd2 rd3 n phi l e g s = s.finish ws := by
  unfold keyInverse
  split
  · exact .inl ⟨_, rfl⟩
  · exact .inr ⟨_, rfl⟩

section
variable {w : Work} (hs : s.phase = .busy w)
include hs

/-- R245, R246: a draw that takes no answer does not end the command. -/
theorem State.phase_ne_idle_of_draw {t : State} {lo hi : Int} (hd : s.draw lo hi = .wait t ∨ s.draw lo hi = .bad t) :
    t.phase ≠ .idle := by
  rcases State.phase_of_draw hd with hphase | hphase <;> simp [hphase, hs]

theorem phase_keyCandidate_ne_idle (σ : Side) (g : KeyWork) : (keyCandidate σ g s).phase ≠ .idle := by
  unfold keyCandidate
  split
  · next hd => exact State.phase_ne_idle_of_draw hs (.inl hd)
  · next hd => exact State.phase_ne_idle_of_draw hs (.inr hd)
  · split <;> exact nofun

theorem phase_keyTest_ne_idle (σ : Side) (o : Oracle) (g : KeyWork) : (keyTest σ o g s).phase ≠ .idle := by
  rcases s.oracleMove_cases o with
    ⟨-, h⟩ | ⟨-, t, hd, h⟩ | ⟨-, a, t, -, ⟨-, h⟩ | ⟨-, -, h⟩ | ⟨-, -, h⟩⟩
  · rw [keyTest_of_verdict h]; exact nofun
  · rw [keyTest_of_stop h]; exact State.phase_ne_idle_of_draw hs hd
  · rw [keyTest_of_again h]; exact nofun
  · rw [keyTest_of_again h]; exact nofun
  · rw [keyTest_of_verdict h]; exact nofun

theorem phase_keyExponent_ne_idle (n phi : Int) (l : Nat) (g : KeyWork) :
    (keyExponent n phi l g s).phase ≠ .idle := by
  unfold keyExponent
  split
  · next hd => exact State.phase_ne_idle_of_draw hs (.inl hd)
  · next hd => exact State.phase_ne_idle_of_draw hs (.inr hd)
  · split <;> exact nofun

end

/-- R153, R157, R159: a running GENKEY ends only at its attempt limit, for want of an exponent, or with its results. -/
theorem genkeyMove_of_idle (rd rd2 rd3 : Reg) (hs : s.phase = .busy (.keygen g))
    (h : (genkeyMove rd rd2 rd3 g s).phase = .idle) :
    (s.kglimit ≠ 0 ∧ g.attempts = s.kglimit.toNat ∧ genkeyMove rd rd2 rd3 g s = s.complete .noPrime) ∨
    genkeyMove rd rd2 rd3 g s = s.complete .noExponent ∨ ∃ ws, genkeyMove rd rd2 rd3 g s = s.finish ws := by
  have goesOn {w : Work} : (s.continueWith w).phase ≠ .idle := nofun
  unfold genkeyMove at h ⊢
  cases hg : g.stage <;> simp only [hg] at h ⊢
  case side σ =>
    rcases keySide_cases σ g s with ⟨g', heq⟩ | hlimit
    · exact absurd (heq ▸ h) goesOn
    · exact .inl hlimit
  case candidate σ => exact absurd h (phase_keyCandidate_ne_idle hs σ g)
  case test σ o => exact absurd h (phase_keyTest_ne_idle hs σ o g)
  case judge =>
    rcases keyJudge_cases g s with ⟨g', heq⟩ | hempty
    · exact absurd (heq ▸ h) goesOn
    · exact .inr (.inl hempty)
  case exponent n phi l => exact absurd h (phase_keyExponent_ne_idle hs n phi l g)
  case inverse n phi l e =>
    rcases keyInverse_cases rd rd2 rd3 n phi l e g s with ⟨g', heq⟩ | hend
    · exact absurd (heq ▸ h) goesOn
    · exact .inr (.inr hend)

end

/-! ## The exponent interval (R156, R157) -/

theorem bitlen_le_iff {v k : Nat} : bitlen v ≤ k ↔ v < 2 ^ k := by
  unfold bitlen
  split_ifs with hv
  · simp [hv]
  · rw [Nat.succ_le_iff, Nat.log2_lt hv]

/-- R15: `clog2(n)` is the smallest exponent whose power of two is at least `n`. -/
theorem clog2_le_iff {n k : Nat} : clog2 n ≤ k ↔ n ≤ 2 ^ k := by
  rw [clog2, bitlen_le_iff]
  have := Nat.two_pow_pos k
  omega

/-- The exponent interval is empty exactly when `n` is above a power of two given by `phi`. -/
theorem exponentInterval_empty_iff {p q : Nat} (hp : 2 ≤ p) (hq : 3 ≤ q) :
    ((p : Int) - 1) * ((q : Int) - 1) - 1 < (clog2 (p * q) : Int) + 1 ↔ 2 ^ ((p - 1) * (q - 1) - 2) < p * q := by
  have hphi : 1 * 2 ≤ (p - 1) * (q - 1) := Nat.mul_le_mul (by omega) (by omega)
  have hcast : ((p : Int) - 1) * ((q : Int) - 1) = ((p - 1) * (q - 1) : Nat) := by
    rw [Nat.cast_mul, Nat.cast_pred (by omega), Nat.cast_pred (by omega)]
  rw [hcast, ← Nat.not_le, ← clog2_le_iff]
  omega

theorem two_mul_le_two_pow {q : Nat} (hq : 7 ≤ q) : 2 * q ≤ 2 ^ (q - 3) := by
  induction q, hq using Nat.le_induction with
  | base => decide
  | succ q hq ih =>
    rw [show q + 1 - 3 = q - 3 + 1 by omega, pow_succ]
    omega

/-- From 3 and 5 on the two candidates leave room for an exponent. -/
theorem mul_le_two_pow_of_three_le {p q : Nat} (hp : 3 ≤ p) (hq : 5 ≤ q) : p * q ≤ 2 ^ ((p - 1) * (q - 1) - 2) := by
  obtain ⟨a, rfl⟩ := Nat.exists_eq_add_of_le hp
  obtain ⟨b, rfl⟩ := Nat.exists_eq_add_of_le hq
  have hprod : (3 + a - 1) * (5 + b - 1) = a * b + 4 * a + 2 * b + 8 := by
    rw [show 3 + a - 1 = 2 + a by omega, show 5 + b - 1 = 4 + b by omega]
    ring
  calc (3 + a) * (5 + b) ≤ 2 ^ (2 + a) * 2 ^ (4 + b) :=
        Nat.mul_le_mul (by have := Nat.lt_two_pow_self (n := 2 + a); omega)
          (by have := Nat.lt_two_pow_self (n := 4 + b); omega)
    _ = 2 ^ (2 + a + (4 + b)) := (pow_add ..).symm
    _ ≤ 2 ^ ((3 + a - 1) * (5 + b - 1) - 2) := Nat.pow_le_pow_right (by decide) (by omega)

/-- R157: of all pairs of primes only 2, 3 and 2, 5 leave no exponent. -/
theorem exponentInterval_empty_iff_of_primes {p q : Nat} (hp : p.Prime) (hq : q.Prime) (hlt : p < q) :
    ((p : Int) - 1) * ((q : Int) - 1) - 1 < (clog2 (p * q) : Int) + 1 ↔ (p = 2 ∧ q = 3) ∨ (p = 2 ∧ q = 5) := by
  have hp2 := hp.two_le
  rw [exponentInterval_empty_iff hp2 (by omega)]
  constructor
  · intro h
    have hq4 : q ≠ 4 := by rintro rfl; exact absurd hq (by decide)
    have hq6 : q ≠ 6 := by rintro rfl; exact absurd hq (by decide)
    rcases hp2.eq_or_lt with rfl | hp3
    · by_contra hne
      have hroom := two_mul_le_two_pow (q := q) (by omega)
      rw [show (2 - 1) * (q - 1) - 2 = q - 3 by omega] at h
      omega
    · exact absurd h (mul_le_two_pow_of_three_le hp3 (by omega)).not_gt
  · rintro (⟨rfl, rfl⟩ | ⟨rfl, rfl⟩) <;> decide

/-! ## The key (R155, R159, R162) -/

/-- R155: `phi` lies in `[0, n]` for candidates from 1 on. -/
theorem phi_bounds {p q : Int} (hp : 1 ≤ p) (hq : 1 ≤ q) : 0 ≤ (p - 1) * (q - 1) ∧ (p - 1) * (q - 1) ≤ p * q := by
  constructor
  · exact mul_nonneg (by omega) (by omega)
  · exact mul_le_mul (by omega) (by omega) (by omega) (by omega)

/-- A modular inverse in `[0, m)` is positive when `m` is above 1. -/
theorem emod_pos_of_mul_emod_eq_one {a x m : Int} (hm : 1 < m) (h : a * (x % m) % m = 1) : 0 < x % m := by
  refine (Int.emod_nonneg x (by omega)).lt_of_ne fun hzero => ?_
  rw [← hzero] at h
  simp at h

/-! ## ENCRYPT and DECRYPT -/

section
variable (rd : Reg) {rs1 rs2 rs3 : Reg} {s : State}

/-- ENCRYPT of a message in range, with the key in order (R171). -/
theorem exec_encrypt (hn : 0 < s.reg rs3) (he : 0 ≤ s.reg rs2) (hm : 0 ≤ s.reg rs1) (hlt : s.reg rs1 < s.reg rs3) :
    exec (.encrypt rd rs1 rs2 rs3) s = .next (s.finish [(rd, s.reg rs1 ^ (s.reg rs2).toNat % s.reg rs3)]) := by
  rw [exec, execEncrypt, if_neg (by omega), if_neg (by omega), if_neg (by omega), modpow_eq, Int.natCast_mod,
    Int.natCast_pow, Int.toNat_of_nonneg hm, Int.toNat_of_nonneg hn.le]

/-- DECRYPT with operands in order (R173). -/
theorem exec_decrypt (hn : 0 < s.reg rs3) (hd : 0 ≤ s.reg rs2) (hc : 0 ≤ s.reg rs1) :
    exec (.decrypt rd rs1 rs2 rs3) s = .next (s.finish [(rd, s.reg rs1 ^ (s.reg rs2).toNat % s.reg rs3)]) := by
  rw [exec, execDecrypt, if_neg (by omega), if_neg (by omega), modpow_eq, Int.natCast_mod, Int.natCast_pow,
    Int.toNat_of_nonneg hc, Int.toNat_of_nonneg hn.le]

end

theorem SameRegsBut.reg_eq {ds : List Reg} {s t : State} (h : SameRegsBut ds s t) {r : Reg} (hr : r ∉ ds) :
    t.reg r = s.reg r := by
  rw [State.reg, h r hr, State.reg]

/-! ## The round trip (R174) -/

/-- Modulo a prime, a power whose exponent is 1 modulo `p - 1` is its base, 0 included. -/
theorem pow_modEq_self_of_prime {p k : Nat} (hp : p.Prime) (hk : k ≠ 0) (h : k ≡ 1 [MOD p - 1]) (m : Int) :
    m ^ k ≡ m [ZMOD p] := by
  have : Fact p.Prime := ⟨hp⟩
  rw [← ZMod.intCast_eq_intCast_iff, Int.cast_pow]
  by_cases hm : (m : ZMod p) = 0
  · rw [hm, zero_pow hk]
  · obtain ⟨j, hj⟩ := (Nat.modEq_iff_dvd' (Nat.pos_of_ne_zero hk)).1 h.symm
    rw [← Nat.sub_add_cancel (Nat.pos_of_ne_zero hk), hj, pow_succ, pow_mul, ZMod.pow_card_sub_one_eq_one hm, one_pow,
      one_mul]

/-- R174: modulo a product of two different primes, a power whose exponent is 1 modulo `phi` is its base. -/
theorem pow_modEq_self_of_primes {p q k : Nat} (hp : p.Prime) (hq : q.Prime) (hne : p ≠ q) (hk : k ≠ 0)
    (h : k ≡ 1 [MOD (p - 1) * (q - 1)]) (m : Int) : m ^ k ≡ m [ZMOD p * q] := by
  have hcoprime : (p : Int).natAbs.Coprime (q : Int).natAbs := (Nat.coprime_primes hp hq).2 hne
  exact (Int.modEq_and_modEq_iff_modEq_mul hcoprime).1
    ⟨pow_modEq_self_of_prime hp hk (h.of_dvd (Dvd.intro _ rfl)) m,
      pow_modEq_self_of_prime hq hk (h.of_dvd (Dvd.intro_left _ rfl)) m⟩

/-- R162, R174: exponents whose product is 1 modulo `phi` undo each other on `[0, n)`. -/
theorem pow_emod_pow_emod_eq_self {p q : Nat} (hp : p.Prime) (hq : q.Prime) (hne : p ≠ q) {e d m : Int} (he : 0 ≤ e)
    (hd : 0 ≤ d) (hed : e * d % (((p : Int) - 1) * ((q : Int) - 1)) = 1) (hm : 0 ≤ m) (hlt : m < (p : Int) * q) :
    (m ^ e.toNat % ((p : Int) * q)) ^ d.toNat % ((p : Int) * q) = m := by
  lift e to Nat using he
  lift d to Nat using hd
  have hphi : ((p : Int) - 1) * ((q : Int) - 1) = ((p - 1) * (q - 1) : Nat) := by
    rw [Nat.cast_mul, Nat.cast_pred hp.pos, Nat.cast_pred hq.pos]
  have hone : e * d % ((p - 1) * (q - 1)) = 1 := by
    rw [hphi] at hed
    exact_mod_cast hed
  have hk : e * d ≠ 0 := fun hzero => by simp [hzero] at hone
  have hmod : e * d ≡ 1 [MOD (p - 1) * (q - 1)] := by
    rw [Nat.ModEq, ← Nat.mod_mod, hone]
  calc (m ^ e % ((p : Int) * q)) ^ d % ((p : Int) * q)
      = m ^ (e * d) % ((p : Int) * q) := by
        rw [pow_mul]
        exact (Int.mod_modEq (m ^ e) _).pow d
    _ = m % ((p : Int) * q) := pow_modEq_self_of_primes hp hq hne hk hmod m
    _ = m := Int.emod_eq_of_lt hm hlt

end Sys2Proof.Machine

namespace Sys2Proof

open Sys2Proof.Machine

/-- Settles O24: the inverse is present, and `e`, `d` and `phi` are no larger than `n`, which fits. -/
theorem genkeyDeliversAKey : Obligations.GenkeyDeliversAKey := by
  intro rd rd2 rd3 rs1 rs2 s g n phi e l hne hs hg hok hfit
  obtain ⟨⟨p, q, hp, hq, hpq, hn, hphi, hl, -⟩, hlo, hhi, hgcd⟩ := hok.stageOk hg
  obtain ⟨-, -, hacc, -⟩ := hok
  obtain ⟨hp2, -⟩ := hacc .p p hp
  obtain ⟨hq2, -⟩ := hacc .q q hq
  obtain ⟨hphi0, hphin⟩ := phi_bounds (p := p) (q := q) (by omega) (by omega)
  rw [← hphi] at hphi0 hphin
  rw [← hn] at hphin
  have hphi1 : 1 < phi := by omega
  have hphifit : fits s.params phi = true := fits_of_natAbs_le (by omega) hfit
  have hefit : fits s.params e = true := fits_of_natAbs_le (v := phi) (by omega) hphifit
  have hcoprime : Int.gcd e phi = 1 := (gcd_eq e phi).symm.trans hgcd
  have hinverse : e * ((xgcd e phi).1 % phi) % phi = 1 :=
    (mul_xgcd_emod hcoprime).trans (Int.emod_eq_of_lt (by decide) hphi1)
  have hnodup : [rd, rd2, rd3].Nodup := by simpa [distinctDestinations, and_assoc] using hne
  obtain ⟨hend, hregs⟩ := State.completes_finish_all (s := s)
    (ws := [(rd, e), (rd2, (xgcd e phi).1 % phi), (rd3, n)]) hnodup
    (by simp [hefit, fits_emod (by omega) hphifit, hfit])
  simp only [List.forall_mem_cons] at hregs
  obtain ⟨hre, hrd, hrn, -⟩ := hregs
  refine ⟨_, exec_genkey_inverse rd rd2 rd3 rs1 rs2 hs hg hgcd, hend, hre, hrn, by omega, by omega, hcoprime,
    ?_, ?_, ?_, p, q, hp, hq, hpq, hn, hphi, hl⟩ <;> rw [hrd]
  · exact emod_pos_of_mul_emod_eq_one hphi1 hinverse
  · exact Int.emod_lt_of_pos _ (by omega)
  · exact hinverse

/-- Settles O26: the end of a pass by its candidates, and the exponent's draw by the state of the port. -/
theorem genkeySamplesExponent : Obligations.GenkeySamplesExponent := by
  intro rd rd2 rd3 rs1 rs2 s g hs goesOn
  refine ⟨fun hg hnone => ?_, fun p q hg hp hq hne hle => ?_, fun n phi l hg => ?_⟩
  · exact (exec_genkey_judge rd rd2 rd3 rs1 rs2 hs hg).trans (congrArg _ (keyJudge_of_none hnone))
  · exact (exec_genkey_judge rd rd2 rd3 rs1 rs2 hs hg).trans (congrArg _ (keyJudge_of_nonempty hp hq hne hle))
  · have hexec := exec_genkey_exponent rd rd2 rd3 rs1 rs2 hs hg
    refine ⟨fun hp => ?_, fun lo hi hp => ?_, fun lo hi e hp hlo hhi => ⟨fun hgcd => ?_, fun hgcd => ?_⟩⟩
    · rw [keyExponent_of_wait (State.draw_of_free hp _ _), ← State.busy_setPort hs] at hexec
      exact hexec
    · rwa [keyExponent_of_wait (State.draw_of_asked hp _ _)] at hexec
    · exact hexec.trans (congrArg _ (keyExponent_of_coprime (State.draw_of_answered hp hlo hhi _ _) hgcd))
    · rw [keyExponent_of_not_coprime (State.draw_of_answered hp hlo hhi _ _) hgcd, ← hg] at hexec
      exact hexec

/-- Settles O27: the head of a side by the limit; no other place of GENKEY ends with `O_NO_PRIME`. -/
theorem genkeyAttemptLimit : Obligations.GenkeyAttemptLimit := by
  refine ⟨fun rd rd2 rd3 rs1 rs2 s g σ hs hg hacc => ⟨fun hk ha => ?_, fun hbelow => ?_⟩, ?_⟩
  · exact ⟨_, (exec_genkey_side rd rd2 rd3 rs1 rs2 hs hg).trans (congrArg _ (keySide_of_limit hacc hk ha)),
      s.completes_complete .noPrime []⟩
  · exact (exec_genkey_side rd rd2 rd3 rs1 rs2 hs hg).trans (congrArg _ (keySide_of_below_limit hacc hbelow))
  · intro rd rd2 rd3 rs1 rs2 s t g hs hk hexec hidle
    cases (exec_genkey_move rd rd2 rd3 rs1 rs2 hs).symm.trans hexec
    rcases genkeyMove_of_idle rd rd2 rd3 hs hidle with ⟨hlimit, -⟩ | heq | ⟨ws, heq⟩
    · exact absurd hk hlimit
    · simp [heq]
    · rcases s.finish_cases ws with ⟨hfin, -⟩ | ⟨hfin, -⟩ <;> simp [heq, hfin]

/-- Settles O28: `n` is at most a power of two that leaves room for an exponent, but for the two pairs. -/
theorem genkeyEmptyInterval : Obligations.GenkeyEmptyInterval := by
  refine ⟨fun rd rd2 rd3 rs1 rs2 s g p q hs hg hp hq hne hempty => ?_,
    fun p q hp hq hlt => exponentInterval_empty_iff_of_primes hp hq hlt, by decide, by decide⟩
  exact ⟨_, (exec_genkey_judge rd rd2 rd3 rs1 rs2 hs hg).trans (congrArg _ (keyJudge_of_empty hp hq hne hempty)),
    s.completes_complete .noExponent []⟩

/-- Settles O29. -/
theorem genkeyEqualCandidates : Obligations.GenkeyEqualCandidates :=
  fun rd rd2 rd3 rs1 rs2 _ _ _ hs hg hp hq =>
    (exec_genkey_judge rd rd2 rd3 rs1 rs2 hs hg).trans (congrArg _ (keyJudge_of_eq hp hq rfl))

/-- Settles O33: the key's registers outlive ENCRYPT, and the two powers undo each other modulo each prime. -/
theorem decryptUndoesEncrypt : Obligations.DecryptUndoesEncrypt := by
  intro rc rm re rk rn ro s p q hp hq hne hn he hd hed hm hlt hfit hck hcn
  have hpos : 0 < s.reg rn := hm.trans_lt hlt
  obtain ⟨hend, hc⟩ := s.completes_finish rc (fits_emod hpos hfit (s.reg rm ^ (s.reg re).toNat))
  have hkeep {r : Reg} (hr : rc ≠ r) := hend.regs.reg_eq (r := r) (by simpa using hr.symm)
  have hk := hkeep hck
  have hn' := hkeep hcn
  refine ⟨_, _, exec_encrypt rc hpos he hm hlt, exec_decrypt ro (hn'.symm ▸ hpos) (hk.symm ▸ hd)
    (hc.symm ▸ Int.emod_nonneg _ hpos.ne'), ?_⟩
  have hback : (s.reg rm ^ (s.reg re).toNat % s.reg rn) ^ (s.reg rk).toNat % s.reg rn = s.reg rm := by
    rw [hn]
    exact pow_emod_pow_emod_eq_self hp hq hne he hd hed hm (hn ▸ hlt)
  rw [hc, hk, hn', hback]
  have hmfit : fits s.params (s.reg rm) = true := fits_of_natAbs_le (by omega) hfit
  rw [← hend.controls.params] at hmfit
  obtain ⟨hend', hm'⟩ := State.completes_finish _ ro hmfit
  exact ⟨hend'.outcome, hm'⟩

/-- Settles O41: the check of the operands comes right after those of ROUNDS and the modulus. -/
theorem operandsAreChecked : Obligations.OperandsAreChecked :=
  ⟨fun _ r s hs hr hm hmem hneg => ⟨_, exec_of_operand_neg hs hr hm ⟨r, hmem, hneg⟩, s.faults_raise .operand⟩,
    fun rd rd2 rd3 _ _ s hs hr hlt => ⟨_, exec_genkey_of_lt rd rd2 rd3 hs hr hlt, s.faults_raise .operand⟩⟩

end Sys2Proof
end

section
/-! The Cipher: ENCRYPT with its range check of the message, and DECRYPT without one. -/

namespace Sys2Proof.Machine

/-- ENCRYPT of a message outside `[0, n)`, with the key in order (R171). -/
theorem exec_encrypt_of_out_of_range (rd : Reg) {rs1 rs2 rs3 : Reg} {s : State} (hn : 0 < s.reg rs3)
    (he : 0 ≤ s.reg rs2) (hm : s.reg rs1 < 0 ∨ s.reg rs3 ≤ s.reg rs1) :
    exec (.encrypt rd rs1 rs2 rs3) s = .next (s.complete .outOfRange) := by
  rw [exec, execEncrypt, if_neg hn.not_ge, if_neg he.not_gt, if_pos hm]

end Sys2Proof.Machine

namespace Sys2Proof

open Sys2Proof.Machine

/-- Settles O31: by the range check; the power is reduced modulo `n`, which fits. -/
theorem encryptWritesCiphertextOrRejects : Obligations.EncryptWritesCiphertextOrRejects := by
  intro rd rs1 rs2 rs3 s hn he hfit
  refine ⟨fun hm hlt => ?_, fun hm => ?_⟩
  · exact ⟨_, exec_encrypt rd hn he hm hlt, s.completes_finish rd (fits_emod hn hfit _)⟩
  · exact ⟨_, exec_encrypt_of_out_of_range rd hn he hm, s.completes_complete .outOfRange []⟩

/-- Settles O32: the power is reduced modulo `n`, which fits, whatever the size of `c`. -/
theorem decryptWritesPlaintext : Obligations.DecryptWritesPlaintext :=
  fun rd _ _ _ s hn hd hc hfit => ⟨_, exec_decrypt rd hn hd hc, s.completes_finish rd (fits_emod hn hfit _)⟩

end Sys2Proof
end

section
/-! The Small-Message Breaker: FINDMSG's search, what the search finds under a valid key, and the faults of widths and
indices. -/

namespace Sys2Proof.Machine

/-! ## FINDMSG -/

/-- FINDMSG with operands in order searches the table's first `r` entries (R188). -/
theorem exec_findmsg (rd : Reg) {rs1 rs2 rs3 : Reg} {s : State} (hn : 0 < s.reg rs1) (hc : 0 ≤ s.reg rs2)
    (hr : 1 ≤ s.reg rs3) (hsize : s.reg rs3 ≤ tableSize s.params) (hlen : s.reg rs3 ≤ s.tablen.toNat) :
    exec (.findmsg rd rs1 rs2 rs3) s =
      .next (searchAndEnd rd (s.reg rs1).toNat (s.reg rs2).toNat (s.reg rs3).toNat s) := by
  rw [exec, execFindmsg, if_neg (by omega), if_neg (by omega), if_neg (by omega), if_neg (by omega)]

/-! ## The search under a valid key (R189) -/

/-- R180: entries that match multiply to the ciphertext. -/
theorem Matches.mul_modEq {T : Nat → Nat} {n c i j : Nat} (hn : 0 < n) (h : Matches T n c i j) :
    T i * T j ≡ c [MOD n] := by
  obtain ⟨inv, hinv, hj⟩ := h
  obtain ⟨-, -, hone⟩ := (modinv_eq_some_iff (Int.natCast_pos.2 hn)).1 hinv
  rw [← Int.natCast_modEq_iff, Int.natCast_mul, hj]
  calc (T i : Int) * (c * inv % n) ≡ T i * (c * inv) [ZMOD n] := (Int.mod_modEq _ _).mul_left _
    _ = c * (T i * inv) := by ring
    _ ≡ c * 1 [ZMOD n] := Int.ModEq.mul_left _ hone
    _ = c := mul_one _

/-- R53: the table of the powers modulo `n`, as `build_table` writes it (`State.memRead_buildTable`). -/
def powerTable (e n k : Nat) : Nat := if k = 0 then 0 else k ^ e % n

theorem powerTable_of_pos {e n k : Nat} (hk : 1 ≤ k) : powerTable e n k = k ^ e % n := if_neg (by omega)

/-- R180: where two powers match, the power of the product of their bases is the ciphertext. -/
theorem Matches.pow_mul_modEq {e n c i j : Nat} (hn : 0 < n) (hi : 1 ≤ i) (hj : 1 ≤ j)
    (h : Matches (powerTable e n) n c i j) : (i * j) ^ e ≡ c [MOD n] := by
  have hmul := h.mul_modEq hn
  rw [powerTable_of_pos hi, powerTable_of_pos hj] at hmul
  calc (i * j) ^ e = i ^ e * j ^ e := mul_pow ..
    _ ≡ i ^ e % n * (j ^ e % n) [MOD n] := ((Nat.mod_modEq _ _).mul (Nat.mod_modEq _ _)).symm
    _ ≡ c [MOD n] := hmul

/-- R189(b): the pair of 1 and the message matches. -/
theorem matches_one_powerTable {e n m : Nat} (hn : 1 < n) (hm : 1 ≤ m) :
    Matches (powerTable e n) n (m ^ e % n) 1 m := by
  refine ⟨1, (modinv_eq_some_iff (by omega)).2 ⟨by omega, by omega, ?_⟩, ?_⟩
  · rw [powerTable_of_pos le_rfl, one_pow, Nat.mod_eq_of_lt hn, Nat.cast_one, mul_one]
  · rw [powerTable_of_pos hm, mul_one, ← Int.natCast_mod, Nat.mod_mod]

/-- The product of two different primes has a `phi` above 1. -/
theorem one_lt_phi {p q : Nat} (hp : p.Prime) (hq : q.Prime) (hne : p ≠ q) : 1 < ((p : Int) - 1) * ((q : Int) - 1) := by
  have hp2 := hp.two_le
  have hq2 := hq.two_le
  rcases Nat.lt_or_gt_of_ne hne with hlt | hlt <;> nlinarith

/-- R189: for a valid key, encryption is injective on `[0, n)`, since the exponent has an inverse modulo `phi`. -/
theorem eq_of_pow_modEq_pow {p q : Nat} (hp : p.Prime) (hq : q.Prime) (hne : p ≠ q) {e a b : Nat}
    (hgcd : Int.gcd e (((p : Int) - 1) * ((q : Int) - 1)) = 1) (ha : a < p * q) (hb : b < p * q)
    (h : a ^ e ≡ b ^ e [MOD p * q]) : a = b := by
  have hphi := one_lt_phi hp hq hne
  have hinverse := (mul_xgcd_emod hgcd).trans (Int.emod_eq_of_lt (by decide) hphi)
  have hdecrypt {x : Nat} (hx : x < p * q) :=
    pow_emod_pow_emod_eq_self hp hq hne e.cast_nonneg (Int.emod_nonneg _ (by omega)) hinverse x.cast_nonneg
      (by exact_mod_cast hx)
  have hpow : (a : Int) ^ e % (p * q) = (b : Int) ^ e % (p * q) := by exact_mod_cast h
  rw [← Int.natCast_inj, ← hdecrypt ha, Int.toNat_natCast, hpow]
  exact hdecrypt hb

/-- R189(a): for a valid key and a ciphertext of `m`, every match is a factorization of `m` modulo `n`. -/
theorem Matches.mul_mod_eq_message {p q : Nat} (hp : p.Prime) (hq : q.Prime) (hne : p ≠ q) {e m i j : Nat}
    (hgcd : Int.gcd e (((p : Int) - 1) * ((q : Int) - 1)) = 1) (hm : m < p * q) (hi : 1 ≤ i) (hj : 1 ≤ j)
    (h : Matches (powerTable e (p * q)) (p * q) (m ^ e % (p * q)) i j) : i * j % (p * q) = m := by
  have hn : 0 < p * q := Nat.mul_pos hp.pos hq.pos
  refine eq_of_pow_modEq_pow hp hq hne hgcd (Nat.mod_lt _ hn) hm ?_
  calc (i * j % (p * q)) ^ e ≡ (i * j) ^ e [MOD p * q] := (Nat.mod_modEq _ _).pow e
    _ ≡ m ^ e % (p * q) [MOD p * q] := h.pow_mul_modEq hn hi hj
    _ ≡ m ^ e [MOD p * q] := Nat.mod_modEq _ _

/-! ## The faults of widths and indices (R235, R236) -/

theorem exec_buildtab_of_width {rs1 rs2 rs3 : Reg} {s : State} (hn : 0 < s.reg rs2) (he : 0 ≤ s.reg rs1)
    (hr : s.reg rs3 < 1 ∨ (tableSize s.params : Int) < s.reg rs3) :
    exec (.buildtab rs1 rs2 rs3) s = .next (s.raise .width) := by
  rw [exec, execBuildtab, if_neg hn.not_ge, if_neg he.not_gt, if_pos hr]

theorem exec_breakmsg_of_width (rd : Reg) {rs1 rs2 rs3 rs4 : Reg} {s : State} (hs : s.phase = .busy .start)
    (hn : 0 < s.reg rs2) (he : 0 ≤ s.reg rs1) (hc : 0 ≤ s.reg rs3)
    (hk : s.reg rs4 < 0 ∨ (s.params.kmax.val : Int) < s.reg rs4) :
    exec (.breakmsg rd rs1 rs2 rs3 rs4) s = .next (s.raise .width) := by
  simp only [exec, execBreakmsg, hs]
  rw [breakStart, if_neg hn.not_ge, if_neg (by omega), if_pos hk]

section
variable (rd : Reg) {rs1 rs2 rs3 : Reg} {s : State}

theorem exec_findmsg_of_width (hn : 0 < s.reg rs1) (hc : 0 ≤ s.reg rs2)
    (hr : s.reg rs3 < 1 ∨ (tableSize s.params : Int) < s.reg rs3) :
    exec (.findmsg rd rs1 rs2 rs3) s = .next (s.raise .width) := by
  rw [exec, execFindmsg, if_neg hn.not_ge, if_neg hc.not_gt, if_pos hr]

theorem exec_findmsg_of_tablen_lt (hn : 0 < s.reg rs1) (hc : 0 ≤ s.reg rs2) (hr : 1 ≤ s.reg rs3)
    (hsize : s.reg rs3 ≤ tableSize s.params) (hlen : (s.tablen.toNat : Int) < s.reg rs3) :
    exec (.findmsg rd rs1 rs2 rs3) s = .next (s.raise .table) := by
  rw [exec, execFindmsg, if_neg hn.not_ge, if_neg hc.not_gt, if_neg (by omega), if_pos hlen]

theorem exec_tabrd_of_index (hk : s.reg rs1 < 0 ∨ (s.tablen.toNat : Int) ≤ s.reg rs1) :
    exec (.tabrd rd rs1) s = .next (s.raise .table) := by
  rw [exec, execTabrd, if_pos hk]

end

end Sys2Proof.Machine

namespace Sys2Proof

open Sys2Proof.Machine

/-- Settles O36, by induction over the rows of the search (`findMessage_cases`). -/
theorem searchReturnsFirstMatch : Obligations.SearchReturnsFirstMatch :=
  fun _ _ _ _ hn => ⟨fun _ _ hfirst => findMessage_of_firstMatch hn hfirst, fun hno => findMessage_of_no_match hn hno⟩

/-- Settles O37: the search's result is reduced modulo `n`, which fits, so it is written. -/
theorem findmsgWritesFirstMatch : Obligations.FindmsgWritesFirstMatch := by
  intro rd rs1 rs2 rs3 s hn hc hr hsize hlen hfit
  have hpos : 0 < (s.reg rs1).toNat := by omega
  have hmod : ((s.reg rs1).toNat : Int) = s.reg rs1 := Int.toNat_of_nonneg hn.le
  have hexec := exec_findmsg rd hn hc hr hsize hlen
  refine ⟨fun i j hfirst => ⟨_, hexec, ?_⟩, fun hno => ⟨_, hexec, ?_⟩⟩
  · have hend := completes_searchAndEnd_of_some rd (findMessage_of_firstMatch hpos hfirst)
      (fits_mod hpos (hmod.symm ▸ hfit) (i * j))
    rwa [Int.natCast_mod, hmod] at hend
  · exact completes_searchAndEnd_of_none rd (findMessage_of_no_match hpos hno) []

/-- Settles O39: a match is a factorization of the plaintext, and below the width the plaintext matches with 1. -/
theorem breakRecoversPlaintext : Obligations.BreakRecoversPlaintext := by
  intro rd rs1 rs2 rs3 rs4 s p q m hp hq hne hs hn he hgcd hm hc hk hkmax hfit
  have hpos : 0 < p * q := Nat.mul_pos hp.pos hq.pos
  have hone : 1 < p * q := hp.one_lt.trans_le (Nat.le_mul_of_pos_right p hq.pos)
  rw [← Int.natCast_mul] at hn
  have hc' : s.reg rs3 = (m ^ (s.reg rs1).toNat % (p * q) : Nat) := by
    rw [hc, hn, Int.natCast_mod, Int.natCast_pow]
  obtain ⟨t, u, ht, -, -, hu, hidle, -, -, -, hfound, hnone⟩ :=
    breakWritesFirstMatch rd rs1 rs2 rs3 rs4 s (powerTable (s.reg rs1).toNat (s.reg rs2).toNat) hs (by omega) he
      (by omega) hk hkmax hfit fun _ => rfl
  rw [hc', hn, Int.toNat_natCast, Int.toNat_natCast] at hfound hnone
  refine ⟨t, u, ht, hu, hidle, ?_⟩
  rcases findMessage_cases (powerTable (s.reg rs1).toNat (p * q)) (m ^ (s.reg rs1).toNat % (p * q))
    (2 ^ (s.reg rs4).toNat) hpos with ⟨i, j, hfirst, -⟩ | ⟨hno, -⟩
  · obtain ⟨hok, hreg, -⟩ := hfound i j hfirst
    obtain ⟨hi, -, hj, -, hmatch, -⟩ := hfirst
    refine ⟨fun _ => ?_, fun _ _ => hok⟩
    rw [← Int.toNat_of_nonneg he] at hgcd
    rw [hreg, ← Int.natCast_mod, hmatch.mul_mod_eq_message hp hq hne hgcd hm hi hj]
  · obtain ⟨hnotFound, -⟩ := hnone hno
    refine ⟨fun hok => by simp [hnotFound] at hok, fun hm1 hmlt => ?_⟩
    exact absurd ⟨1, m, le_rfl, hm1.trans_lt hmlt, hm1, hmlt, matches_one_powerTable hone hm1⟩ hno

/-- Settles O42: no other check comes before these but those of the modulus and the operands' signs. -/
theorem widthsAndIndicesAreChecked : Obligations.WidthsAndIndicesAreChecked :=
  ⟨fun _ _ _ s hn he hr => ⟨_, exec_buildtab_of_width hn he hr, s.faults_raise .width⟩,
    fun rd _ _ _ s hn hc =>
      ⟨fun hr => ⟨_, exec_findmsg_of_width rd hn hc hr, s.faults_raise .width⟩,
        fun hr hsize hlen => ⟨_, exec_findmsg_of_tablen_lt rd hn hc hr hsize hlen, s.faults_raise .table⟩⟩,
    fun rd _ _ _ _ s hs hn he hc hk => ⟨_, exec_breakmsg_of_width rd hs hn he hc hk, s.faults_raise .width⟩,
    fun rd _ s hk => ⟨_, exec_tabrd_of_index rd hk, s.faults_raise .table⟩⟩

end Sys2Proof
end

section
/-! NOP (R210): its one move and its one word. -/

namespace Sys2Proof

/-- A word decodes to a command exactly when the command is well formed and the word is its encoding. -/
theorem decodeWord_eq_ok_iff {w : Word} {i : Instr} :
    decodeWord w = .ok i ↔ i.wellFormed = true ∧ encode i = w := by
  refine ⟨encode_of_decodeWord, ?_⟩
  rintro ⟨hwf, rfl⟩
  exact decodeWord_encode hwf

theorem encode_nop : encode .nop = 0 := by decide

theorem Machine.exec_nop (s : Machine.State) : Machine.exec .nop s = .next (s.complete .ok) := rfl

/-- Settles O7: NOP's move is `State.complete`, and the decoder accepts for NOP the word `encode .nop` alone. -/
theorem nopOnlyCompletes : Obligations.NopOnlyCompletes := by
  refine ⟨fun s => ⟨_, Machine.exec_nop s, s.completes_complete .ok []⟩, fun w => ?_⟩
  calc decodeWord w = .ok .nop
    _ ↔ encode .nop = w := decodeWord_eq_ok_iff.trans (and_iff_right rfl)
    _ ↔ w = 0 := by rw [encode_nop, eq_comm]

end Sys2Proof
end

section
/-! The exceptions of commands: F_CONFIG at their start, F_RNG at their draws, and what a command that faults or does not
end with `O_OK` leaves unchanged. -/

namespace Sys2Proof.Machine

/-! ## ROUNDS = 0 -/

/-- R230, R238: in the two commands that draw, the check of ROUNDS comes first. -/
theorem exec_of_rounds_zero {i : Instr} {s : State} (hi : i.draws = true) (hs : s.phase = .busy .start)
    (hr : s.rounds = 0) : exec i s = .next (s.raise .config) := by
  cases i with
  | isprime rd rs1 => exact (exec_isprime_start rd rs1 hs).trans (congrArg _ (if_pos hr))
  | genkey rd rd2 rd3 rs1 rs2 =>
    simp only [exec, execGenkey, hs]
    exact congrArg Host.Outcome.next (if_pos hr)
  | _ => cases hi

/-! ## An answer out of range -/

section
variable {s t : State}

/-- R246: an answer outside the range of its request raises F_RNG at whatever draw uses it. -/
theorem State.draw_of_out_of_range {l h v : Int} (hp : s.port = .answered l h v) (hv : v < l ∨ h < v) (lo hi : Int) :
    s.draw lo hi = .bad (s.raise .rng) := by
  simp only [State.draw, hp]
  exact if_neg (by omega)

theorem keyCandidate_of_bad {σ : Side} {g : KeyWork} (hd : s.draw g.lower g.upper = .bad t) :
    keyCandidate σ g s = t := by
  simp [keyCandidate, hd]

theorem keyExponent_of_bad {n phi : Int} {l : Nat} {g : KeyWork} (hd : s.draw (l + 1) (phi - 1) = .bad t) :
    keyExponent n phi l g s = t := by
  simp [keyExponent, hd]

theorem State.oracleMove_of_bad {o : Oracle} (hr : o.round ≤ s.rounds.toNat) (hd : s.draw 0 (o.n - 1) = .bad t) :
    s.oracleMove o = .stop t := by
  simp [State.oracleMove, hr.not_gt, hd]

/-- A round of the oracle is at a draw as long as rounds are to be run (R134). -/
theorem round_le_of_drawRange {rounds : Nat} {o : Oracle} {range : Int × Int}
    (h : drawRange rounds (.oracle o) = some range) : o.round ≤ rounds := by
  by_contra hlt
  rw [drawRange, if_neg hlt] at h
  cases h

/-- A running GENKEY at a draw moves to where the faulting draw leads (R246). -/
theorem genkeyMove_of_bad (rd rd2 rd3 : Reg) {g : KeyWork} {range : Int × Int}
    (hrange : drawRange s.rounds.toNat (.keygen g) = some range) (hd : ∀ lo hi, s.draw lo hi = .bad t) :
    genkeyMove rd rd2 rd3 g s = t := by
  unfold genkeyMove
  cases hg : g.stage <;> simp only [drawRange, hg] at hrange
  case candidate σ => exact keyCandidate_of_bad (hd _ _)
  case test σ o => exact keyTest_of_stop (State.oracleMove_of_bad (round_le_of_drawRange hrange) (hd _ _))
  case exponent n phi l => exact keyExponent_of_bad (hd _ _)
  all_goals cases hrange

/-- At each of its draws a command moves to where the faulting draw leads (R246). -/
theorem exec_of_bad {i : Instr} {w : Work} {range : Int × Int} (hi : workOf i w = true) (hs : s.phase = .busy w)
    (hrange : drawRange s.rounds.toNat w = some range) (hd : ∀ lo hi, s.draw lo hi = .bad t) :
    exec i s = .next t := by
  cases w with
  | start => cases hrange
  | search n c r => cases hrange
  | oracle o =>
    cases i with
    | isprime rd rs1 =>
      rw [exec_isprime_loop rd rs1 hs,
        isprimeLoop_of_stop rd (State.oracleMove_of_bad (round_le_of_drawRange hrange) (hd _ _))]
    | _ => cases hi
  | keygen g =>
    cases i with
    | genkey rd rd2 rd3 rs1 rs2 =>
      rw [exec_genkey_move rd rd2 rd3 rs1 rs2 hs, genkeyMove_of_bad rd rd2 rd3 hrange hd]
    | _ => cases hi

end

/-! ## The arrival of an answer -/

section
variable {s : State}

/-- R245: an outstanding request takes the answer. -/
theorem State.receive_of_asked {lo hi : Int} (hp : s.port = .asked lo hi) (v : Int) :
    s.receive v = { s with port := .answered lo hi v } := by
  simp [State.receive, hp]

/-- R247: an answer for which no request is outstanding is discarded. -/
theorem State.receive_of_not_asked (hp : ∀ lo hi, s.port ≠ .asked lo hi) (v : Int) : s.receive v = s := by
  rcases s.receive_cases v with ⟨lo, hi, hasked, -⟩ | hsame
  · exact absurd hasked (hp lo hi)
  · exact hsame

end

/-! ## What a command writes before it ends -/

section
variable {i : Instr} {s t : State}

/-- R222, R233: registers are written only by a move that completes `O_OK`. -/
theorem Move.sameRegs_or_completes (h : Move i s t) :
    SameRegsBut [] s t ∨ t.phase = .idle ∧ t.outcome = .ok := by
  cases h with
  | raised c => exact .inl fun _ _ => rfl
  | ended o => exact .inl fun _ _ => rfl
  | finished ws dest fit => exact .inr ⟨rfl, rfl⟩
  | goesOn p w => exact .inl fun _ _ => rfl
  | waits p => exact .inl fun _ _ => rfl
  | built rs1 rs2 rs3 e n r hi hr fit => exact .inr ⟨rfl, rfl⟩
  | searching rd rs1 rs2 rs3 rs4 e n c hi fit => exact .inl fun _ _ => rfl

/-- R222, R233: a move after which the command has not ended writes no register. -/
theorem Move.sameRegs_of_phase_ne_idle (h : Move i s t) (ht : t.phase ≠ .idle) : SameRegsBut [] s t :=
  h.sameRegs_or_completes.resolve_right fun hend => ht hend.1

/-- R222: a move that leaves an outcome other than `O_OK` writes no register. -/
theorem Move.sameRegs_of_outcome_ne_ok (h : Move i s t) (ht : t.outcome ≠ .ok) : SameRegsBut [] s t :=
  h.sameRegs_or_completes.resolve_right fun hend => ht hend.2

/-- R233: of the moves after which the command has not ended, only BREAK's to its search writes the table. -/
theorem Move.sameTable_or_searching (h : Move i s t) (ht : t.phase ≠ .idle) :
    SameTable s t ∨
    ∃ rd rs1 rs2 rs3 rs4 n c r, i = .breakmsg rd rs1 rs2 rs3 rs4 ∧ t.phase = .busy (.search n c r) := by
  cases h with
  | raised c => exact .inl (.refl s)
  | ended o => exact absurd rfl ht
  | finished ws dest fit => exact absurd rfl ht
  | goesOn p w => exact .inl (.refl s)
  | waits p => exact .inl (.refl s)
  | built rs1 rs2 rs3 e n r hi hr fit => exact absurd rfl ht
  | searching rd rs1 rs2 rs3 rs4 e n c hi fit => exact .inr ⟨rd, rs1, rs2, rs3, rs4, _, _, _, hi, rfl⟩

/-- R188, R231: under the invariant BREAK's search does not fault, since its modulus fits a register. -/
theorem phase_searchAndEnd (h : StateInv s) {n c r : Nat} (hs : s.phase = .busy (.search n c r)) (rd : Reg) :
    (searchAndEnd rd n c r s).phase = .idle := by
  obtain ⟨hn, hfit, -, -⟩ := h.workOk hs
  obtain ⟨o, hend⟩ := completes_searchAndEnd rd c r hn hfit
  exact hend.phase

end

end Sys2Proof.Machine

namespace Sys2Proof

open Sys2Proof.Machine

/-- Settles O23: every draw leads to F_RNG on such an answer, whichever of the three it is. -/
theorem drawAnswersAreChecked : Obligations.DrawAnswersAreChecked := by
  refine ⟨fun i s w range lo hi v _ hwork hs hrange hp hv => ?_,
    fun s v rest hpending => ⟨fun lo hi hp => ?_, fun hp => ?_⟩⟩
  · exact ⟨_, exec_of_bad hwork hs hrange (State.draw_of_out_of_range hp hv), s.faults_raise .rng⟩
  · exact (step_of_pending hpending).trans
      (congrArg _ (State.receive_of_asked (s := { s with pending := rest }) hp v))
  · exact (step_of_pending hpending).trans
      (congrArg _ (State.receive_of_not_asked (s := { s with pending := rest }) hp v))

/-- Settles O43: the moves that write registers or a table are those that end the command, and BREAK's to its search. -/
theorem faultingCommandWritesNothing : Obligations.FaultingCommandWritesNothing := by
  refine ⟨fun i s t ht => ⟨fun c hc => ?_, fun w hw => ?_⟩, fun rd rs1 rs2 rs3 rs4 s n c r hinv hs => ?_⟩
  · have hmove := Move.of_exec ht
    have hend : t.phase ≠ .idle := by simp [hc]
    refine ⟨hmove.sameRegs_of_phase_ne_idle hend, ?_, hmove.sameControls⟩
    rcases hmove.sameTable_or_searching hend with hsame | ⟨_, _, _, _, _, _, _, _, -, hsearch⟩
    · exact hsame
    · cases hc.symm.trans hsearch
  · have hmove := Move.of_exec ht
    have hend : t.phase ≠ .idle := by simp [hw]
    refine ⟨hmove.sameRegs_of_phase_ne_idle hend, hmove.sameControls, ?_⟩
    rcases hmove.sameTable_or_searching hend with hsame | ⟨rd, rs1, rs2, rs3, rs4, n, c, r, hi, hsearch⟩
    · exact .inl hsame
    · cases hw.symm.trans hsearch
      exact .inr ⟨rd, rs1, rs2, rs3, rs4, n, c, r, hi, rfl⟩
  · exact ⟨_, exec_breakmsg_search rd rs1 rs2 rs3 rs4 hs, phase_searchAndEnd hinv hs rd⟩

/-- Settles O44: registers are written only by a move that completes `O_OK`. -/
theorem otherOutcomesWriteNoRegister : Obligations.OtherOutcomesWriteNoRegister := by
  intro i s t ht
  have hmove := Move.of_exec ht
  exact ⟨hmove.sameRegs_of_outcome_ne_ok, fun w hw => hmove.sameRegs_of_phase_ne_idle (by simp [hw])⟩

/-- Settles O22: both commands check ROUNDS before anything else. -/
theorem zeroRoundsFault : Obligations.ZeroRoundsFault :=
  fun _ s hi hs hr => ⟨_, exec_of_rounds_zero hi hs hr, s.faults_raise .config⟩

end Sys2Proof
end

section
/-! The phase FAULTED (R242, R243): what one event of each agent can do in it. -/

namespace Sys2Proof.Machine

/-- Every piece of the CORE's state but CTRL.IE is unchanged. -/
def SameCoreButIe (s t : State) : Prop :=
  t = { s with ie := t.ie, pending := t.pending, clock := t.clock, response := t.response }

/-- Every piece of the CORE's state is at its reset value (R37). -/
def AfterReset (s t : State) : Prop :=
  t = { State.resetOf s.params with pending := t.pending, clock := t.clock, response := t.response }

/-- The two events that reset (R242): a hard reset, and a write to CTRL with bit 1 set. -/
def Event.IsReset (e : Event) : Prop :=
  e = .host .hardReset ∨ ∃ w : Word, e = .host (.writeReg 0x08 w) ∧ w.getLsbD 1 = true

/-- Taking an event off changes only what the agents have lined up (log 3). -/
theorem State.takeEvent_frame (s : State) : ∃ p c, s.takeEvent.2 = { s with pending := p, clock := c } := by
  rcases s.takeEvent_cases with ⟨e, rest, -, heq⟩ | ⟨-, heq⟩ <;> rw [heq]
  · exact ⟨rest, s.clock, rfl⟩
  · exact ⟨s.pending, s.clock + 1, rfl⟩

section
variable {s t : State}

/-- R67: `ReadX` changes nothing of the CORE. -/
theorem State.readX_frame (s : State) (i : Reg) :
    s.readX i = { s with clock := (s.readX i).clock, response := (s.readX i).response } := by
  unfold State.readX
  split <;> rfl

/-- R67: `ReadReg` changes nothing of the CORE. -/
theorem State.readReg_frame {off : Nat} (ht : s.readReg off = .next t) :
    t = { s with clock := t.clock, response := t.response } := by
  unfold State.readReg at ht
  split_ifs at ht
  · cases ht; rfl
  · cases ht; rfl
  · split at ht <;> cases ht
    rfl
  · split at ht <;> cases ht
    rfl

section
variable (hs : s.phase ≠ .idle)
include hs

/-- R61: unless IDLE, `WriteX` changes nothing of the CORE. -/
theorem State.writeX_frame_of_ne_idle {i : Reg} {v : Int} (ht : s.writeX i v = .next t) :
    t = { s with response := t.response } := by
  by_cases hv : fits s.params v = true
  · cases (State.writeX_of_ne_idle hs i hv).symm.trans ht
    rfl
  · rw [State.writeX, if_neg hv] at ht
    cases ht

/-- R61: unless IDLE, a `WriteReg` elsewhere than to CTRL changes nothing of the CORE. -/
theorem State.writeReg_frame_of_ne_idle {off : Nat} {w : Word} (hoff : off ≠ 0x08) (ht : s.writeReg off w = .next t) :
    t = { s with response := t.response } := by
  simp only [State.writeReg, State.controlWrite_of_ne_idle hs hoff, State.windowWrite_of_ne_idle hs] at ht
  split_ifs at ht
  · cases ht; rfl
  · cases ht; rfl
  · split at ht <;> cases ht
    rfl

/-- R61, R243: unless IDLE, a host transaction changes nothing of the CORE but CTRL.IE, or it is one of the two resets. -/
theorem State.transact_of_ne_idle {tr : Transaction} (ht : s.transact tr = .next t) :
    SameCoreButIe s t ∨ (Event.host tr).IsReset ∧ AfterReset s t := by
  cases tr with
  | writeX i v => exact .inl (by rw [SameCoreButIe, State.writeX_frame_of_ne_idle hs ht])
  | readX i => cases ht; exact .inl (by rw [SameCoreButIe, s.readX_frame i])
  | readReg off => exact .inl (by rw [SameCoreButIe, State.readReg_frame ht])
  | oddAccess width off => cases ht; exact .inl rfl
  | hardReset => cases ht; exact .inr ⟨.inl rfl, rfl⟩
  | writeReg off w =>
    by_cases hoff : off = 0x08
    · subst hoff
      have hctrl : t = (s.writeCtrl w).respond .ack := by cases ht; rfl
      cases hbit : w.getLsbD 1 with
      | false =>
        have hie : s.writeCtrl w = { s with ie := w.getLsbD 0 } := State.controlWrite_ctrl s hbit
        rw [hctrl, hie]
        exact .inl rfl
      | true =>
        have hreset : s.writeCtrl w = s.resetCore := if_pos hbit
        rw [hctrl, hreset]
        exact .inr ⟨.inr ⟨w, rfl, hbit⟩, rfl⟩
    · exact .inl (by rw [SameCoreButIe, State.writeReg_frame_of_ne_idle hs hoff ht])

end

/-- R242: in FAULTED the engine does nothing. -/
theorem State.engineMove_of_faulted {c : FaultCode} (hs : s.phase = .faulted c) : s.engineMove = .next s := by
  simp [State.engineMove, hs]

/-- R242, R243: in FAULTED an event changes nothing of the CORE but CTRL.IE, or it is one of the two resets. -/
theorem State.react_of_faulted {c : FaultCode} {e : Event} (hs : s.phase = .faulted c) (hp : s.port = .free)
    (ht : s.react e = .next t) :
    SameCoreButIe s t ∨ e.IsReset ∧ AfterReset s t := by
  cases e with
  | host tr => exact State.transact_of_ne_idle (by simp [hs]) ht
  | answer v =>
    rw [State.react, State.receive_of_not_asked (by simp [hp])] at ht
    cases ht
    exact .inl rfl
  | engine =>
    rw [State.react, State.engineMove_of_faulted hs] at ht
    cases ht
    exact .inl rfl

end

end Sys2Proof.Machine

namespace Sys2Proof

open Sys2Proof.Machine

/-- Settles O57: an event is taken off and reacted to, and in FAULTED no reaction but a reset does more. -/
theorem faultedUntilReset : Obligations.FaultedUntilReset := by
  intro s t c hs hp ht
  obtain ⟨p, k, htaken⟩ := s.takeEvent_frame
  have hreact : s.takeEvent.2.react s.takeEvent.1 = .next t := ht
  rw [htaken] at hreact
  exact State.react_of_faulted (s := { s with pending := p, clock := k }) hs hp hreact

end Sys2Proof
end

section
/-! The two resets (R260, R261): what the step that takes one of them gives, in every phase. -/

namespace Sys2Proof.Machine

/-- R261: a write to CTRL with bit 1 set is a reset, whatever its other bits and in every phase. -/
theorem State.controlWrite_softReset (s : State) {w : Word} (hbit : w.getLsbD 1 = true) :
    s.controlWrite 0x08 w = s.resetCore :=
  if_pos hbit

section
variable {s : State} {rest : List Event}

/-- R260: the step that takes a hard reset resets the CORE and returns nothing. -/
theorem step_hardReset (h : s.pending = .host .hardReset :: rest) :
    step s = .next ((State.resetCore { s with pending := rest }).respond .quiet) := by
  rw [step_of_pending h, State.react, State.transact]

/-- R261: the step that takes a write to CTRL with bit 1 set resets the CORE and acknowledges the write. -/
theorem step_softReset {w : Word} (h : s.pending = .host (.writeReg 0x08 w) :: rest) (hbit : w.getLsbD 1 = true) :
    step s = .next ((State.resetCore { s with pending := rest }).respond .ack) := by
  rw [step_writeReg h (by decide) (by decide), State.controlWrite_softReset _ hbit]

end

/-- R37, R260: the reset leaves only what is no state of the CORE, whatever events are lined up and whatever the
transaction returns. -/
theorem State.afterReset_resetCore (s : State) (rest : List Event) (r : Response) :
    AfterReset s ((State.resetCore { s with pending := rest }).respond r) :=
  rfl

end Sys2Proof.Machine

namespace Sys2Proof

open Sys2Proof.Machine

/-- Settles O50: both resets take the same step but for the response, and that step gives the reset state. -/
theorem resetsRestoreTheResetState : Obligations.ResetsRestoreTheResetState := by
  intro s tr rest hpending hreset
  rcases hreset with rfl | ⟨w, rfl, hbit⟩
  · exact ⟨_, step_hardReset hpending, s.afterReset_resetCore rest .quiet⟩
  · exact ⟨_, step_softReset hpending hbit, s.afterReset_resetCore rest .ack⟩

end Sys2Proof
end
